-- ==== Sys2Proof/Word.lean ====
section
/-! DEFINITION. The values of the block: bytes and nibbles (00_scope.md R8).

A byte is 8 bits and a nibble 4 bits, bit 0 the least significant. Addition on bytes is modulo 256, as R8's
`(a + b) mod 256`. Counts, lengths and buffer indexes are natural numbers; the cursor is an integer. -/

namespace Sys2Proof

/-- "A *byte* is an unsigned integer `0..255`, 8 bits." (R8) -/
abbrev Byte := BitVec 8

/-- "A *nibble* is `0..15`, 4 bits." (R8) -/
abbrev Nibble := BitVec 4

end Sys2Proof
end

