-- ==== Sys2Proof/Config.lean ====
section
/-! DEFINITION. What an implementation fixes (00_scope.md R5) and the free values.

The OPEN parameters of R5 are the structure `Params`, which State carries as a constant field, so that a statement
about every state is a statement about every configuration (log entry 2). The values the spec leaves free have no
body: nothing can be proved of them (log entries 4, 5, 8, 21). -/

namespace Sys2Proof

/-- `MAX_HEX`: the largest number of hex characters decoded from one frame (R5). -/
def maxHex : Int := 12

/-- `IDLE`: the value of the cursor in the idle regime (R5, D3). -/
def idleCursor : Int := -1

/-- A pin identifier of the platform's digital I/O (R40). The block compares none and computes with none; it only passes
them on (log entry 21). -/
abbrev Pin := Nat

/-- `INVALID_CHAR_POLICY`: what an invalid character does to the cursor in mid-frame (R5, R117). -/
inductive InvalidCharPolicy where
  | preserve
  | resetToIdle
deriving DecidableEq, Repr, Inhabited

/-- The implementation parameters of R5. "None of them can be changed while the block runs." -/
structure Params where
  /-- start marker -/
  stx : Byte
  /-- end marker -/
  etx : Byte
  /-- acknowledgment byte; "`ACK` has no constraint inside this block" -/
  ack : Byte
  /-- the three command strings, six characters each (R64) -/
  cmdAlarm : Vector Byte 6
  cmdTestAlarm : Vector Byte 6
  cmdNoAlarm : Vector Byte 6
  /-- `PIN_PRESENCE`, the presence-detect input pin: OPEN (D14) -/
  pinPresence : Pin
  /-- `PIN_RAIL`, the peripheral's support/power rail pin: OPEN (D14) -/
  pinRail : Pin
  /-- the level that means the peripheral's rail is on -/
  railOn : Bool
  policy : InvalidCharPolicy
deriving DecidableEq, Repr

/-- One of "the sixteen hex-digit codes" of 30_encoding.md R52: 0x30 to 0x39 and 0x41 to 0x46. -/
def isHexCode (b : Byte) : Bool :=
  (decide (0x30 ≤ b.toNat) && decide (b.toNat ≤ 0x39)) || (decide (0x41 ≤ b.toNat) && decide (b.toNat ≤ 0x46))

/-- The constraints R5 makes a model check: "`STX != ETX`; neither `STX` nor `ETX` is one of the sixteen hex-digit
codes". A configuration that breaks them is refused (log entries 13, 34). -/
def Params.ok (p : Params) : Bool :=
  decide (p.stx ≠ p.etx) && !isHexCode p.stx && !isHexCode p.etx

/-- `CMD_ALARM` of the default configuration: OPEN, no default (R5, D13). Free: log entry 4. -/
opaque Config.cmdAlarm : Vector Byte 6
/-- `CMD_TEST_ALARM` of the default configuration: OPEN, no default (R5, D13). Free: log entry 4. -/
opaque Config.cmdTestAlarm : Vector Byte 6
/-- `CMD_NO_ALARM` of the default configuration: OPEN, no default (R5, D13). Free: log entry 4. -/
opaque Config.cmdNoAlarm : Vector Byte 6

/-- `PIN_PRESENCE` of the default configuration: OPEN, no default (R5, D14). Free: log entry 21. -/
opaque Config.pinPresence : Pin
/-- `PIN_RAIL` of the default configuration: OPEN, no default (R5, D14). Free: log entry 21. -/
opaque Config.pinRail : Pin

/-- The bytes of `DecodedBuffer` at reset: "unspecified: any six bytes" (10_state.md R23, D5). Free: log entry 5. -/
opaque Config.resetBuf : Nat → Byte

/-- The answer of the n-th PinRead that no scheduled answer covers: "a free Boolean per read, under no law"
(00_scope.md R7, 20_memory.md R40, U11). Free: log entry 8. -/
opaque Config.freePin : Nat → Bool

/-- The default values of R5 (D1, D6, D14; log entry 3), with the three command strings and the two pins free. -/
def Params.default : Params where
  stx := 0x02
  etx := 0x03
  ack := 0x06
  cmdAlarm := Config.cmdAlarm
  cmdTestAlarm := Config.cmdTestAlarm
  cmdNoAlarm := Config.cmdNoAlarm
  pinPresence := Config.pinPresence
  pinRail := Config.pinRail
  railOn := true
  policy := .preserve

end Sys2Proof
end

