-- ==== Sys2Proof/Syntax.lean ====
section
/-! DEFINITION. The instructions: one constructor per row of spec/opcode_table.json.

R6: an instruction is "one of the seven host operations ...; inside `pollReceive`, one of the five per-byte actions
selected by the received byte and the cursor". The table lists the host operations by operation-select code (R62) and
the received bytes by class (R58). -/

namespace Sys2Proof

/-- "a closed enumeration {Alarm, TestAlarm, NoAlarm}" (41_frame_encoder.md R96). -/
inductive AlarmState where
  | alarm
  | testAlarm
  | noAlarm
deriving DecidableEq, Repr

/-- The operand of `setAlarmState`: "a value that is `Alarm`, `TestAlarm`, `NoAlarm`, or anything else" (R95). An
unknown value is told apart by the byte that stands for it at the command port (log entry 10). -/
inductive AlarmOperand where
  | known (a : AlarmState)
  | unknown (v : Byte)
deriving DecidableEq, Repr

inductive Instr where
  /-- RX.STX: a received byte of class START -/
  | rxStx
  /-- RX.ETX: a received byte of class END -/
  | rxEtx
  /-- RX.HEX_0 to RX.HEX_F: a received byte of class HEX(n) -/
  | rxHex0
  | rxHex1
  | rxHex2
  | rxHex3
  | rxHex4
  | rxHex5
  | rxHex6
  | rxHex7
  | rxHex8
  | rxHex9
  | rxHexA
  | rxHexB
  | rxHexC
  | rxHexD
  | rxHexE
  | rxHexF
  /-- RX.OTHER: a received byte of class OTHER -/
  | rxOther (b : Byte)
  /-- op 0 (40_activity_gate.md R80) -/
  | isPeripheralActive
  /-- op 1 (41_frame_encoder.md R90) -/
  | sendByte (b : Byte)
  /-- op 2 (R91) -/
  | sendAck
  /-- op 3 (R92): any finite byte sequence, of any length (R66, D21) -/
  | sendHexString (hexChars : List Byte) (gated : Bool)
  /-- op 4 (R94) -/
  | sendCommand (v : Byte)
  /-- op 5 (R95) -/
  | setAlarmState (state : AlarmOperand)
  /-- op 6 (42_receive_state_machine.md R110) -/
  | pollReceive
  /-- op 7, the row "(refused)": "no operation has this code; a model refuses it" (R62, U15) -/
  | opSeven
deriving DecidableEq, Repr

/-- Where an instruction's words come from: the caller's command port (R62), or the receive queue (R58). -/
inductive Source where
  | port
  | line
deriving DecidableEq, Repr

def Instr.source : Instr → Source
  | .rxStx | .rxEtx => .line
  | .rxHex0 | .rxHex1 | .rxHex2 | .rxHex3 | .rxHex4 | .rxHex5 | .rxHex6 | .rxHex7 => .line
  | .rxHex8 | .rxHex9 | .rxHexA | .rxHexB | .rxHexC | .rxHexD | .rxHexE | .rxHexF => .line
  | .rxOther _ => .line
  | .isPeripheralActive | .sendByte _ | .sendAck | .sendHexString _ _ => .port
  | .sendCommand _ | .setAlarmState _ | .pollReceive | .opSeven => .port

end Sys2Proof
end

