-- ==== Sys2Proof/WellFormed.lean ====
section
/-! DEFINITION. Which terms of `Instr` stand for an instruction.

Two checks, both about operands whose values belong to another row or another operand: a byte of class OTHER is in none
of the other classes (R58, R59), and an alarm operand that is "anything else" is none of the three states (R95). -/

namespace Sys2Proof

/-- Class OTHER of R58: "every other value". -/
def isOtherByte (p : Params) (b : Byte) : Bool :=
  decide (b ≠ p.stx) && decide (b ≠ p.etx) && !isHexCode b

def Instr.wellFormed (p : Params) : Instr → Bool
  | .rxOther b => isOtherByte p b
  | .setAlarmState (.unknown v) => decide (2 < v.toNat)
  | .setAlarmState (.known _) => true
  | .rxStx | .rxEtx => true
  | .rxHex0 | .rxHex1 | .rxHex2 | .rxHex3 | .rxHex4 | .rxHex5 | .rxHex6 | .rxHex7 => true
  | .rxHex8 | .rxHex9 | .rxHexA | .rxHexB | .rxHexC | .rxHexD | .rxHexE | .rxHexF => true
  | .isPeripheralActive | .sendByte _ | .sendAck | .sendHexString _ _ => true
  | .sendCommand _ | .pollReceive | .opSeven => true

end Sys2Proof
end

