-- ==== Sys2Proof/Decode.lean ====
section
/-! DEFINITION. Decoding, total on any bytes, and after it the encoder.

Two decoders, one per format of spec/opcode_table.json. RXBYTE: a received byte selects its class (30_encoding.md R58);
every byte has one. HOSTOP: the command port of R62 carries a 3-bit operation-select code; the spec gives the operands no
encoding, so their layout behind the code is the model's own (log entry 10):

  | operation | bytes |
  | 0, 2, 6, 7 | the code |
  | 1 sendByte, 4 sendCommand | the code, the operand byte |
  | 3 sendHexString | the code, 00 (gated, the default) or 01 (not gated), then 01 c for each character c, then 00 |
  | 5 setAlarmState | the code, 00 Alarm, 01 TestAlarm, 02 NoAlarm, any other byte an unknown value | -/

namespace Sys2Proof

/-! ## Hex coding (R52, R53) -/

/-- `hexchar(n)`: nibble to ASCII code, upper case (R52, log entry 30). -/
def hexchar (n : Nibble) : Byte :=
  if n.toNat ≤ 9 then BitVec.ofNat 8 (0x30 + n.toNat) else BitVec.ofNat 8 (0x41 + (n.toNat - 10))

/-- `hexval(b)`: ASCII code to nibble, `none` where R53 says `invalid`. -/
def hexval (b : Byte) : Option Nibble :=
  if 0x30 ≤ b.toNat ∧ b.toNat ≤ 0x39 then some (BitVec.ofNat 4 (b.toNat - 0x30))
  else if 0x41 ≤ b.toNat ∧ b.toNat ≤ 0x46 then some (BitVec.ofNat 4 (b.toNat - 0x41 + 10))
  else none

/-! ## Received bytes (R58) -/

/-- The row RX.HEX_n of the table. -/
def hexInstr (n : Nibble) : Instr :=
  match n.toNat with
  | 0 => .rxHex0
  | 1 => .rxHex1
  | 2 => .rxHex2
  | 3 => .rxHex3
  | 4 => .rxHex4
  | 5 => .rxHex5
  | 6 => .rxHex6
  | 7 => .rxHex7
  | 8 => .rxHex8
  | 9 => .rxHex9
  | 10 => .rxHexA
  | 11 => .rxHexB
  | 12 => .rxHexC
  | 13 => .rxHexD
  | 14 => .rxHexE
  | _ => .rxHexF

/-- The class of a received byte (R58, the classes by value). -/
def decodeRx (p : Params) (b : Byte) : Instr :=
  if b = p.stx then .rxStx
  else if b = p.etx then .rxEtx
  else
    match hexval b with
    | some n => hexInstr n
    | none => .rxOther b

/-! ## Host operations (R62) -/

/-- Why the bytes at the command port are no call. All of them concern the model's own layout of operands. -/
inductive DecodeError where
  /-- the bytes end before the operation is complete -/
  | truncated
  /-- the code byte is above 7: not a 3-bit code -/
  | notASelectCode (b : Byte)
  /-- the gated byte of sendHexString is neither 00 nor 01 -/
  | badGatedByte (b : Byte)
  /-- the byte before a character of sendHexString is neither 00 nor 01 -/
  | badCharTag (b : Byte)
deriving DecidableEq, Repr

/-- The characters of sendHexString: 01 c for each, 00 at the end. -/
def decodeChars : List Byte → Except DecodeError (List Byte × List Byte)
  | [] => .error .truncated
  | [t] => if t.toNat = 0 then .ok ([], []) else if t.toNat = 1 then .error .truncated else .error (.badCharTag t)
  | t :: c :: rest =>
    if t.toNat = 0 then .ok ([], c :: rest)
    else if t.toNat = 1 then
      match decodeChars rest with
      | .ok (cs, rest') => .ok (c :: cs, rest')
      | .error e => .error e
    else .error (.badCharTag t)

/-- The operand of sendHexString: the gated byte, then the characters. -/
def decodeHexString : List Byte → Except DecodeError (Instr × List Byte)
  | [] => .error .truncated
  | g :: rest =>
    if g.toNat ≤ 1 then
      match decodeChars rest with
      | .ok (cs, rest') => .ok (.sendHexString cs (decide (g.toNat = 0)), rest')
      | .error e => .error e
    else .error (.badGatedByte g)

/-- A one-byte operand. -/
def decodeOperand (f : Byte → Instr) : List Byte → Except DecodeError (Instr × List Byte)
  | [] => .error .truncated
  | b :: rest => .ok (f b, rest)

def alarmOfByte (v : Byte) : AlarmOperand :=
  match v.toNat with
  | 0 => .known .alarm
  | 1 => .known .testAlarm
  | 2 => .known .noAlarm
  | _ => .unknown v

/-- The call at the head of the port's bytes, with the bytes behind it; the operation-select codes of R62. -/
def decodeCall : List Byte → Except DecodeError (Instr × List Byte)
  | [] => .error .truncated
  | op :: rest =>
    match op.toNat with
    | 0 => .ok (.isPeripheralActive, rest)
    | 1 => decodeOperand .sendByte rest
    | 2 => .ok (.sendAck, rest)
    | 3 => decodeHexString rest
    | 4 => decodeOperand .sendCommand rest
    | 5 => decodeOperand (fun v => .setAlarmState (alarmOfByte v)) rest
    | 6 => .ok (.pollReceive, rest)
    | 7 => .ok (.opSeven, rest)
    | _ => .error (.notASelectCode op)

/-- Both formats: an instruction read from the command port or from the receive queue. -/
def decode (p : Params) : Source → List Byte → Except DecodeError (Instr × List Byte)
  | .port, bs => decodeCall bs
  | .line, [] => .error .truncated
  | .line, b :: rest => .ok (decodeRx p b, rest)

/-! ## The encoder -/

def encodeChars : List Byte → List Byte
  | [] => [0x00]
  | c :: cs => 0x01 :: c :: encodeChars cs

def byteOfAlarm : AlarmOperand → Byte
  | .known .alarm => 0x00
  | .known .testAlarm => 0x01
  | .known .noAlarm => 0x02
  | .unknown v => v

/-- The words of an instruction: a received byte by the class table of R58, a host operation by its code of R62. -/
def encode (p : Params) : Instr → List Byte
  | .rxStx => [p.stx]
  | .rxEtx => [p.etx]
  | .rxHex0 => [0x30]
  | .rxHex1 => [0x31]
  | .rxHex2 => [0x32]
  | .rxHex3 => [0x33]
  | .rxHex4 => [0x34]
  | .rxHex5 => [0x35]
  | .rxHex6 => [0x36]
  | .rxHex7 => [0x37]
  | .rxHex8 => [0x38]
  | .rxHex9 => [0x39]
  | .rxHexA => [0x41]
  | .rxHexB => [0x42]
  | .rxHexC => [0x43]
  | .rxHexD => [0x44]
  | .rxHexE => [0x45]
  | .rxHexF => [0x46]
  | .rxOther b => [b]
  | .isPeripheralActive => [0x00]
  | .sendByte b => [0x01, b]
  | .sendAck => [0x02]
  | .sendHexString cs gated => 0x03 :: (if gated then 0x00 else 0x01) :: encodeChars cs
  | .sendCommand v => [0x04, v]
  | .setAlarmState a => [0x05, byteOfAlarm a]
  | .pollReceive => [0x06]
  | .opSeven => [0x07]

/-! ## The table's words -/

/-- Byte `k` and the `n` bytes above it of a word numbered as the table numbers it (bit 0 the least significant bit of
the first byte). -/
def bytesOfWord : Nat → Nat → List Byte
  | 0, _ => []
  | n + 1, w => BitVec.ofNat 8 (w % 256) :: bytesOfWord n (w / 256)

/-- The bytes of a table word: the row's bytes, then zero bytes, enough for the longest operand of zeros. -/
def wordBytes (nbits w : Nat) : List Byte :=
  bytesOfWord ((nbits + 7) / 8) (w % 2 ^ nbits) ++ [0x00, 0x00, 0x00]

/-- Whether a table word is read as a HOSTOP row. The two formats share their 8-bit words; the row with the most fixed
bits is taken: an RXBYTE row with eight (RX.STX 02, RX.ETX 03, RX.HEX_n), then a HOSTOP row with three (codes 0 to 7),
then RX.OTHER with none. A word of fewer or of more than eight bits can only be a HOSTOP row (log entry 11). -/
def isCallWord (nbits w : Nat) : Bool :=
  if nbits = 8 then decide (w % 256 < 8 ∧ w % 256 ≠ 2 ∧ w % 256 ≠ 3) else true

/-- The instruction the decoder reads from a word of spec/opcode_table.json, with the parameters of R5 at their
defaults, as the table gives them. -/
def decodeTableWord (nbits w : Nat) : Option Instr :=
  if isCallWord nbits w then
    match decodeCall (wordBytes nbits w) with
    | .ok (i, _) => some i
    | .error _ => none
  else some (decodeRx Params.default (BitVec.ofNat 8 w))

end Sys2Proof
end

