-- ==== Sys2Proof/Machine/State.lean ====
section
/-! DEFINITION. The state of the machine as plain data, the reasons a step can stop, and the state after reset.

`Block` is the block's own state and nothing else (10_state.md R10). Everything else is the environment's (R22), the
parameters (00_scope.md R5), or the model's own (INVENTORY.md, heading State). -/

namespace Sys2Proof.Machine

/-- "The complete state of the block is two items" (R10). -/
structure Block where
  /-- the receive cursor: -1 idle, 0 to 11 decoding, 12 overflow (R14, R15) -/
  cursor : Int
  /-- `DecodedBuffer`: six bytes, no alias, no hardwired entry, no bank (R11) -/
  buf : Vector Byte 6
deriving DecidableEq, Repr

/-- "the only two modes the block uses are `InputPullDown` ... and `Input`" (20_memory.md R40). -/
inductive PinMode where
  | inputPullDown
  | input
deriving DecidableEq, Repr

/-- A call of the digital I/O collaborator (R40). -/
inductive PinEvent where
  | setMode (p : Pin) (m : PinMode)
  | read (p : Pin) (level : Bool)
  | write (p : Pin) (level : Bool)
deriving DecidableEq, Repr

/-- `Dispatch(b, n)`: "a copy of all six buffer bytes at that moment" and the length (60_exceptions.md R151). -/
structure DispatchEvent where
  bytes : Vector Byte 6
  length : Nat
deriving DecidableEq, Repr

/-- One outward effect of the block, in the order the pseudocode lists them (20_memory.md R42; log entry 17). -/
inductive Event where
  | tx (b : Byte)
  | pin (e : PinEvent)
  | dispatch (d : DispatchEvent)
deriving DecidableEq, Repr

/-- The optional `status` of a poll (10_state.md R18, 42_receive_state_machine.md R124). -/
inductive PollStatus where
  | idle
  | frameComplete
  | frameDropped
  | awaitingMore
deriving DecidableEq, Repr

/-- What an operation returns to its caller (30_encoding.md R62, column result). -/
inductive Result where
  | unit
  | bool (b : Bool)
  | poll (b : Bool) (status : PollStatus)
deriving DecidableEq, Repr

structure State where
  /-- the block's own state (R10) -/
  block : Block
  /-- the parameters of R5; no operation writes them -/
  params : Params
  /-- the receive queue, oldest byte first (20_memory.md R38) -/
  rxq : List Byte
  /-- the block's outward effects, oldest first; `txlog`, `displog` and `pinlog` are views of it -/
  trace : List Event
  /-- the pin environment's scheduled answers to the next PinReads (the oracle of 00_scope.md R7) -/
  pinAnswers : List Bool
  /-- the model's own: PinReads made, the counter the free pin answer is applied to (log entry 8) -/
  pinReads : Nat
  /-- what the environment appends to `rxq` before each coming step (R7, 20_memory.md R44; log entry 9) -/
  arrivals : List (List Byte)
  /-- the operations the caller has still to invoke, as bytes at the command port (R7, R62; log entry 10) -/
  calls : List Byte
  /-- what the last operation returned; none before the first one and while a poll is under way (log entry 18) -/
  result : Option Result
deriving DecidableEq, Repr

/-- The byte an event writes to the transmit stream, if it does. -/
def Event.txByte : Event → Option Byte
  | .tx b => some b
  | .pin _ => none
  | .dispatch _ => none

/-- The message an event dispatches, if it does. -/
def Event.message : Event → Option DispatchEvent
  | .dispatch d => some d
  | .tx _ => none
  | .pin _ => none

/-- The pin call an event is, if it is one. -/
def Event.pinCall : Event → Option PinEvent
  | .pin e => some e
  | .tx _ => none
  | .dispatch _ => none

/-- The mode a pin call sets on `p`, if it does. -/
def PinEvent.modeOf (p : Pin) : PinEvent → Option PinMode
  | .setMode q m => if q = p then some m else none
  | .read _ _ => none
  | .write _ _ => none

/-- The level a pin call drives `p` to, if it does. -/
def PinEvent.drives (p : Pin) : PinEvent → Option Bool
  | .write q v => if q = p then some v else none
  | .setMode _ _ => none
  | .read _ _ => none

/-- `txlog`: every byte written, oldest first (10_state.md R22 (c), 20_memory.md R39). -/
def State.txlog (s : State) : List Byte := s.trace.filterMap Event.txByte

/-- `displog`: every dispatch event, oldest first (10_state.md R22 (d), 60_exceptions.md R151). -/
def State.displog (s : State) : List DispatchEvent := s.trace.filterMap Event.message

/-- The pin-event log R40 allows a model to keep. -/
def State.pinlog (s : State) : List PinEvent := s.trace.filterMap Event.pinCall

/-- The mode the block last set on a pin; none where it has set none since reset and the pin has "whatever mode ... the
platform left" (70_reset_and_hazards.md R172). -/
def State.pinMode (s : State) (p : Pin) : Option PinMode := (s.pinlog.filterMap (PinEvent.modeOf p)).getLast?

/-- The level the block last drove a pin to; none where it has driven it to none since reset. -/
def State.pinDriven (s : State) (p : Pin) : Option Bool := (s.pinlog.filterMap (PinEvent.drives p)).getLast?

/-- The block raises no exception (60_exceptions.md R140); the one fault is the model's. -/
inductive Fault where
  /-- A buffer access with an index above 5: "a fault of the model, never reached" (20_memory.md R30, U13). Raised by
  `memRead` and `memWrite` of Machine/Ops.lean; no instruction reaches it. Safe: the machine stops. -/
  | bufferIndex (i : Nat)
deriving DecidableEq, Repr

inductive Refusal where
  /-- An instruction that has no meaning yet; raised by exec's arms only. Safe: the machine stops. -/
  | notModelled (mnemonic : String)
  /-- Operation-select code 7: "no operation has this code; a model refuses it" (30_encoding.md R62, U15). Raised by
  `execOpSeven`. Safe: the spec asks for it. -/
  | noOperation
  /-- The parameters break the constraints of 00_scope.md R5: "refuse a configuration that breaks them" (D2, U14).
  Raised by `step`. Safe: the spec asks for it. -/
  | inadmissibleParameters
  /-- The bytes at the command port are no call in the model's own layout (log entries 10, 16). Raised by `step`. Safe:
  the machine stops, and the layout is not the hardware's. -/
  | malformedCall (e : DecodeError)
deriving DecidableEq, Repr

/-- What every meaning answers. -/
abbrev Out := Host.Outcome State Fault Refusal

/-- The machine right after reset (10_state.md R23, 70_reset_and_hazards.md R170, R172; log entries 3 to 8): the cursor
idle, the buffer's bytes free, nothing recorded, and no input scheduled. -/
def State.reset : State where
  block := { cursor := idleCursor, buf := Vector.ofFn fun i => Config.resetBuf i.val }
  params := Params.default
  rxq := []
  trace := []
  pinAnswers := []
  pinReads := 0
  arrivals := []
  calls := []
  result := none

end Sys2Proof.Machine
end

