-- ==== Sys2Proof/Machine/Ops.lean ====
section
/-! DEFINITION. The named operations over the state: the primitives of 00_scope.md R8, the activity gate of
40_activity_gate.md R80, and the acknowledgment of 41_frame_encoder.md R91, which the receive machine shares. -/

namespace Sys2Proof.Machine

/-! ## Field updates -/

def State.setCursor (s : State) (c : Int) : State := { s with block := { s.block with cursor := c } }

def State.setBuf (s : State) (b : Vector Byte 6) : State := { s with block := { s.block with buf := b } }

def State.setRxq (s : State) (q : List Byte) : State := { s with rxq := q }

/-- Record one outward effect. -/
def State.emit (s : State) (e : Event) : State := { s with trace := s.trace ++ [e] }

/-- Hand a value back to the caller: the operation has returned. -/
def State.ret (s : State) (r : Result) : State := { s with result := some r }

/-- The operation goes on: nothing has been returned yet. -/
def State.running (s : State) : State := { s with result := none }

/-- Go on from a next state; a fault or a refusal ends the operation. -/
def andThen (o : Out) (f : State → Out) : Out :=
  match o with
  | .next s => f s
  | .fault r => .fault r
  | .refused r => .refused r

/-! ## The decoded buffer (20_memory.md R30) -/

/-- `MemRead(i, 1)`: the byte at index `i`, and a fault of the model above 5. -/
def memRead (i : Nat) (s : State) (f : Byte → Out) : Out :=
  if h : i < 6 then f (s.block.buf[i]'h) else .fault (.bufferIndex i)

/-- `MemWrite(i, 1, v)`: replace the byte at index `i`; a fault of the model above 5. -/
def memWrite (i : Nat) (v : Byte) (s : State) : Out :=
  if h : i < 6 then .next (s.setBuf (s.block.buf.set i v h)) else .fault (.bufferIndex i)

/-! ## The byte streams (R38, R39) -/

/-- `RxAvail()`: the number of bytes waiting; changes nothing. -/
def rxAvail (s : State) : Nat := s.rxq.length

/-- `RxRead()`: remove and return the oldest waiting byte; on an empty queue, none and no change. -/
def rxRead (s : State) : Option Byte × State :=
  match s.rxq with
  | [] => (none, s)
  | b :: q => (some b, s.setRxq q)

/-- `TxWrite(b)`: append to the transmit stream; it always completes (D22, log entry 20). -/
def txWrite (b : Byte) (s : State) : State := s.emit (.tx b)

/-! ## The pins (R40) -/

def pinMode (p : Pin) (m : PinMode) (s : State) : State := s.emit (.pin (.setMode p m))

def pinWrite (p : Pin) (v : Bool) (s : State) : State := s.emit (.pin (.write p v))

/-- The oracle's answer to the next PinRead: the scheduled one, and with none scheduled the free value (log entry 8). -/
def pinAnswer (s : State) : Bool :=
  match s.pinAnswers with
  | v :: _ => v
  | [] => Config.freePin s.pinReads

/-- One answer of the oracle has been used. -/
def pinAdvance (s : State) : State := { s with pinAnswers := s.pinAnswers.tail, pinReads := s.pinReads + 1 }

/-- `PinRead(p)`: the level "at that moment; the level is decided by the environment". -/
def pinRead (p : Pin) (s : State) : Bool × State :=
  (pinAnswer s, (pinAdvance s).emit (.pin (.read p (pinAnswer s))))

/-! ## The dispatcher (60_exceptions.md R151) -/

/-- `Dispatch(b, n)` with `b` the six buffer bytes as they stand. -/
def dispatch (n : Nat) (s : State) : State := s.emit (.dispatch { bytes := s.block.buf, length := n })

/-! ## The activity gate (40_activity_gate.md R80) -/

/-- `GateActive()`: the presence sample, and the pin calls that go with it. -/
def gateActive (s : State) : Bool × State :=
  let s1 := pinMode s.params.pinPresence .inputPullDown s
  let sample := pinRead s.params.pinPresence s1
  let s2 := pinMode s.params.pinPresence .input sample.2
  if sample.1 then
    let rail := pinRead s.params.pinRail s2
    let s3 := if rail.1 ≠ s.params.railOn then pinWrite s.params.pinRail s.params.railOn rail.2 else rail.2
    (sample.1, s3)
  else (sample.1, s2)

/-! ## The acknowledgment (41_frame_encoder.md R90, R91) -/

/-- The body of `sendByte`: "unconditional single-byte transport write". -/
def sendByte (b : Byte) (s : State) : State := txWrite b s

/-- The body of `sendAck`: gated; if active, the byte `ACK`. -/
def sendAck (s : State) : State :=
  let g := gateActive s
  if g.1 then sendByte s.params.ack g.2 else g.2

end Sys2Proof.Machine
end

