-- ==== Sys2Proof/Machine/Operands.lean ====
section
/-! DEFINITION. The operand forms: nibbles of a byte, a byte as two characters (30_encoding.md R54), the checksum (R55),
the frame (R50, R93), the cursor as an index and as a count (20_memory.md R35), the command strings (R64), and the
dispatcher's checksum predicate (R57). -/

namespace Sys2Proof.Machine

/-- "The high nibble of a byte `v` is `v[7:4]`" (00_scope.md R8). -/
def highNibble (v : Byte) : Nibble := v.extractLsb' 4 4

/-- "the low nibble `v[3:0]`" (R8). -/
def lowNibble (v : Byte) : Nibble := v.extractLsb' 0 4

/-- `zext_8(n)` (R8). -/
def zext8 (n : Nibble) : Byte := n.setWidth 8

/-- `((b << 4) | n) mod 256`: shift the byte left four bits and OR in the nibble (20_memory.md R35). -/
def shiftIn (b : Byte) (n : Nibble) : Byte := (b <<< 4) ||| zext8 n

/-- A byte as two characters, high nibble first (R54). -/
def hexPair (v : Byte) : List Byte := [hexchar (highNibble v), hexchar (lowNibble v)]

/-- `hex(P)`: the characters of a payload (41_frame_encoder.md R99). -/
def hexOf : List Byte → List Byte
  | [] => []
  | v :: vs => hexPair v ++ hexOf vs

/-- `cksum(S)`: the 8-bit sum of a byte sequence (R55). -/
def cksum : List Byte → Byte
  | [] => 0
  | c :: cs => c + cksum cs

/-- `frame(h)` (41_frame_encoder.md R93): what the encoder's pseudocode amounts to. The meaning of sendHexString is
written from the pseudocode of R92, not from this. -/
def frame (p : Params) (h : List Byte) : List Byte :=
  [p.stx] ++ h ++ [hexchar (highNibble (cksum h)), hexchar (lowNibble (cksum h))] ++ [p.etx]

/-- `cursor >> 1`: "the index of the buffer byte the next character goes into", and at the end marker the number of
completely decoded bytes (10_state.md R14, 42_receive_state_machine.md R115). Never applied to a negative cursor. -/
def halfCursor (c : Int) : Nat := (c / 2).toNat

/-- `odd(cursor)` (R8). -/
def oddCursor (c : Int) : Bool := decide (c % 2 = 1)

/-- The command string of an alarm state (41_frame_encoder.md R95, 30_encoding.md R64). -/
def commandString (p : Params) : AlarmState → List Byte
  | .alarm => p.cmdAlarm.toList
  | .testAlarm => p.cmdTestAlarm.toList
  | .noAlarm => p.cmdNoAlarm.toList

/-- `rx_checksum_ok(b, n)` (R57): "for the dispatcher's use, and for tests ...; it is not a step of the block". False
outside the predicate's range `1 <= n <= 5`. -/
def rxChecksumOk (b : Vector Byte 6) (n : Nat) : Bool :=
  if h : 1 ≤ n ∧ n ≤ 5 then decide ((b[n]'(by omega)) = cksum (hexOf (b.toList.take n))) else false

end Sys2Proof.Machine
end

