-- ==== Sys2Proof/Machine/Flags.lean ====
section
/-! DEFINITION. What an operation reports. "The block has no flags, no condition codes and no error latch" (10_state.md
R17): all there is are the results, two of them the constant `true`, and the derived `status` of a poll (R18,
42_receive_state_machine.md R124, log entry 18). -/

namespace Sys2Proof.Machine

/-- `setAlarmState` "always reports success" (41_frame_encoder.md R95). -/
def alarmResult : Result := .bool true

/-- "The Boolean result of `pollReceive` is `true` on every one of its return paths" (R124). -/
def pollResult (st : PollStatus) : Result := .poll true st

/-- The status of the end-of-frame action (R124): `FrameComplete` if the message was dispatched. -/
def frameStatus (dispatched : Bool) : PollStatus := if dispatched then .frameComplete else .frameDropped

/-- The status of the invalid-character action (R124), by policy. -/
def invalidStatus : InvalidCharPolicy → PollStatus
  | .preserve => .awaitingMore
  | .resetToIdle => .frameDropped

end Sys2Proof.Machine
end

