-- ==== Sys2Proof/Machine/Encoder.lean ====
section
/-! DEFINITION. The activity gate as an operation and the frame encoder (40_activity_gate.md R80, 41_frame_encoder.md
R90 to R95). None of them reads or writes the cursor, the buffer or the receive queue (R97). -/

namespace Sys2Proof.Machine

/-! ## The shared body of sendHexString (R92) -/

/-- The loop of R92: write every character, accumulating the 8-bit sum. Answers the sum and the state. -/
def sendChars : List Byte → Byte → State → Byte × State
  | [], sum, s => (sum, s)
  | c :: cs, sum, s => sendChars cs (sum + c) (sendByte c s)

/-- R92 behind its gate: STX, the characters, the checksum as two hex digits, ETX. -/
def sendFrame (hexChars : List Byte) (s : State) : State :=
  let body := sendChars hexChars 0 (sendByte s.params.stx s)
  let s1 := sendByte (hexchar (highNibble body.1)) body.2
  let s2 := sendByte (hexchar (lowNibble body.1)) s1
  sendByte s.params.etx s2

/-- The body of `sendHexString` (R92). With `gated = false` the gate is not called at all (D11, log entry 23). -/
def sendHexString (hexChars : List Byte) (gated : Bool) (s : State) : State :=
  if gated then
    let g := gateActive s
    if g.1 then sendFrame hexChars g.2 else g.2
  else sendFrame hexChars s

/-! ## The meanings -/

/-- `isPeripheralActive` (R80): the presence sample is the result. -/
def execIsPeripheralActive (s : State) : Out :=
  let g := gateActive s
  .next (g.2.ret (.bool g.1))

/-- `sendByte` (R90): not gated. -/
def execSendByte (b : Byte) (s : State) : Out := .next ((sendByte b s).ret .unit)

/-- `sendAck` (R91). -/
def execSendAck (s : State) : Out := .next ((sendAck s).ret .unit)

/-- `sendHexString` (R92). -/
def execSendHexString (hexChars : List Byte) (gated : Bool) (s : State) : Out :=
  .next ((sendHexString hexChars gated s).ret .unit)

/-- `sendCommand` (R94): the two characters of the byte, gated (D12, log entry 24). -/
def execSendCommand (v : Byte) (s : State) : Out := .next ((sendHexString (hexPair v) true s).ret .unit)

/-- `setAlarmState` (R95): the command string, gated; an unknown state sends nothing and does not call the gate. -/
def execSetAlarmState (state : AlarmOperand) (s : State) : Out :=
  match state with
  | .known a => .next ((sendHexString (commandString s.params a) true s).ret alarmResult)
  | .unknown _ => .next (s.ret alarmResult)

/-- Operation-select code 7 (30_encoding.md R62): "no operation has this code; a model refuses it" (U15). -/
def execOpSeven (_ : State) : Out := .refused .noOperation

end Sys2Proof.Machine
end

