-- ==== Sys2Proof/Machine/Receive.lean ====
section
/-! DEFINITION. The receive state machine (42_receive_state_machine.md R110 to R125): the five per-byte actions, the byte
classes that select them, and pollReceive, which runs one action per byte it reads.

A received byte is an instruction of format RXBYTE. Its meaning is the action R122 selects for it in the state it meets,
after RxRead has taken it from the queue. An action that lets the poll go on leaves `result` empty; one that ends the poll
sets it (log entries 1, 18). -/

namespace Sys2Proof.Machine

/-! ## The five actions -/

/-- SEARCH (R113). -/
def search (b : Byte) (s : State) : State :=
  if b = s.params.stx then (s.setCursor 0).running else s.running

/-- END (R114, R115), the end-of-frame event of 60_exceptions.md R150: acknowledge, perhaps dispatch, go idle, return. -/
def endOfFrame (s : State) : State :=
  let k := halfCursor s.block.cursor
  let acked := sendAck s
  let told := if k > 1 then dispatch (k - 1) acked else acked
  (told.setCursor idleCursor).ret (pollResult (frameStatus (decide (k > 1))))

/-- OVERFLOW (R116): the byte is dropped and the poll ends. -/
def overflowDrop (s : State) : State := s.ret (pollResult .awaitingMore)

/-- INVALID (R117): the byte is dropped and the poll ends; what becomes of the frame is the policy's (log entry 29). -/
def invalidChar (s : State) : State :=
  match s.params.policy with
  | .preserve => s.ret (pollResult (invalidStatus .preserve))
  | .resetToIdle => (s.setCursor idleCursor).ret (pollResult (invalidStatus .resetToIdle))

/-- After either nibble write, "Increment `cursor`" (R120); the poll goes on. -/
def advance (s : State) : State := (s.setCursor (s.block.cursor + 1)).running

/-- NIBBLE (R118, R119): at an even cursor the nibble starts a byte, at an odd one it completes it; then R120. -/
def nibble (n : Nibble) (s : State) : Out :=
  let i := halfCursor s.block.cursor
  if oddCursor s.block.cursor then
    memRead i s fun b => andThen (memWrite i (shiftIn b n) s) fun t => .next (advance t)
  else andThen (memWrite i (zext8 n) s) fun t => .next (advance t)

/-- The action a byte selects: "the conditions are tested in exactly this order, and the first that holds selects the
action" (R122). -/
def receiveByte (b : Byte) (s : State) : Out :=
  if s.block.cursor < 0 then .next (search b s)
  else if b = s.params.etx then .next (endOfFrame s)
  else if s.block.cursor ≥ maxHex then .next (overflowDrop s)
  else
    match hexval b with
    | none => .next (invalidChar s)
    | some n => nibble n s

/-! ## The byte classes (30_encoding.md R58): one meaning per row -/

def execRxStx (s : State) : Out := receiveByte s.params.stx s
def execRxEtx (s : State) : Out := receiveByte s.params.etx s
def execRxHex0 (s : State) : Out := receiveByte 0x30 s
def execRxHex1 (s : State) : Out := receiveByte 0x31 s
def execRxHex2 (s : State) : Out := receiveByte 0x32 s
def execRxHex3 (s : State) : Out := receiveByte 0x33 s
def execRxHex4 (s : State) : Out := receiveByte 0x34 s
def execRxHex5 (s : State) : Out := receiveByte 0x35 s
def execRxHex6 (s : State) : Out := receiveByte 0x36 s
def execRxHex7 (s : State) : Out := receiveByte 0x37 s
def execRxHex8 (s : State) : Out := receiveByte 0x38 s
def execRxHex9 (s : State) : Out := receiveByte 0x39 s
def execRxHexA (s : State) : Out := receiveByte 0x41 s
def execRxHexB (s : State) : Out := receiveByte 0x42 s
def execRxHexC (s : State) : Out := receiveByte 0x43 s
def execRxHexD (s : State) : Out := receiveByte 0x44 s
def execRxHexE (s : State) : Out := receiveByte 0x45 s
def execRxHexF (s : State) : Out := receiveByte 0x46 s
def execRxOther (b : Byte) (s : State) : Out := receiveByte b s

/-! ## pollReceive (R110) -/

/-- Go on with the poll unless the action has ended it, which its having returned a result says. -/
def unlessReturned (t : State) (f : State → Out) : Out :=
  match t.result with
  | some _ => .next t
  | none => f t

/-- The drain loop (R112): read one byte, run its action, and go on unless the action ended the poll. The fuel is the
number of bytes waiting at entry, which is all the loop can read: the queue does not grow during a poll (20_memory.md R44,
70_reset_and_hazards.md R186). -/
def drain : Nat → State → Out
  | 0, s => .next (s.ret (pollResult .awaitingMore))
  | n + 1, s =>
    match rxRead s with
    | (none, s1) => .next (s1.ret (pollResult .awaitingMore))
    | (some b, s1) => andThen (receiveByte b s1) fun t => unlessReturned t (drain n)

/-- `pollReceive`: an idle poll returns at once (R111), otherwise the queue is drained (R112, R121). -/
def execPollReceive (s : State) : Out :=
  if rxAvail s = 0 then .next (s.ret (pollResult .idle)) else drain (rxAvail s) s

end Sys2Proof.Machine
end

