-- ==== Sys2Proof/Machine/Dispatch.lean ====
section
/-! DEFINITION. One arm per constructor of Instr. -/

namespace Sys2Proof.Machine

def exec (i : Instr) (s : State) : Host.Outcome State Fault Refusal :=
  match i with
  -- received bytes, by class (30_encoding.md R58)
  | .rxStx => Sys2Proof.Machine.execRxStx s
  | .rxEtx => Sys2Proof.Machine.execRxEtx s
  | .rxHex0 => Sys2Proof.Machine.execRxHex0 s
  | .rxHex1 => Sys2Proof.Machine.execRxHex1 s
  | .rxHex2 => Sys2Proof.Machine.execRxHex2 s
  | .rxHex3 => Sys2Proof.Machine.execRxHex3 s
  | .rxHex4 => Sys2Proof.Machine.execRxHex4 s
  | .rxHex5 => Sys2Proof.Machine.execRxHex5 s
  | .rxHex6 => Sys2Proof.Machine.execRxHex6 s
  | .rxHex7 => Sys2Proof.Machine.execRxHex7 s
  | .rxHex8 => Sys2Proof.Machine.execRxHex8 s
  | .rxHex9 => Sys2Proof.Machine.execRxHex9 s
  | .rxHexA => Sys2Proof.Machine.execRxHexA s
  | .rxHexB => Sys2Proof.Machine.execRxHexB s
  | .rxHexC => Sys2Proof.Machine.execRxHexC s
  | .rxHexD => Sys2Proof.Machine.execRxHexD s
  | .rxHexE => Sys2Proof.Machine.execRxHexE s
  | .rxHexF => Sys2Proof.Machine.execRxHexF s
  | .rxOther b => Sys2Proof.Machine.execRxOther b s
  -- host operations, by operation-select code (R62)
  | .isPeripheralActive => Sys2Proof.Machine.execIsPeripheralActive s
  | .sendByte b => Sys2Proof.Machine.execSendByte b s
  | .sendAck => Sys2Proof.Machine.execSendAck s
  | .sendHexString hexChars gated => Sys2Proof.Machine.execSendHexString hexChars gated s
  | .sendCommand v => Sys2Proof.Machine.execSendCommand v s
  | .setAlarmState state => Sys2Proof.Machine.execSetAlarmState state s
  | .pollReceive => Sys2Proof.Machine.execPollReceive s
  | .opSeven => Sys2Proof.Machine.execOpSeven s

end Sys2Proof.Machine
end

