-- ==== Sys2Proof/Machine/Fetch.lean ====
section
/-! DEFINITION. What happens around an operation: the environment's move before it and the taking of the next call from
the command port (00_scope.md R7, 20_memory.md R44; log entries 9, 10, 12). -/

namespace Sys2Proof.Machine

/-- Between two steps the environment may append bytes to the receive queue, at its tail (20_memory.md R38). -/
def deliver (s : State) : State :=
  { s with rxq := s.rxq ++ s.arrivals.headD [], arrivals := s.arrivals.tail }

/-- The next call at the command port, and the state with its bytes taken: none where no operation is invoked. -/
def nextCall (s : State) : Option (Except DecodeError (Instr × State)) :=
  match s.calls with
  | [] => none
  | c :: cs =>
    match decodeCall (c :: cs) with
    | .ok (i, rest) => some (.ok (i, { s with calls := rest }))
    | .error e => some (.error e)

/-- The bytes of the call a HOSTOP table word stands for, without the zero bytes behind it. -/
def callBytes (nbits w : Nat) : List Byte :=
  match decodeCall (wordBytes nbits w) with
  | .ok (_, rest) => (wordBytes nbits w).take ((wordBytes nbits w).length - rest.length)
  | .error _ => wordBytes nbits w

/-- Put a call in front of those the caller has still to make. -/
def placeCall (bs : List Byte) (s : State) : State := { s with calls := bs ++ s.calls }

/-- Make the next step a poll that reads exactly the byte `b`: `b` alone waits, nothing arrives first, and the next call
is pollReceive. -/
def placeByte (b : Byte) (s : State) : State :=
  placeCall [0x06] { s with rxq := [b], arrivals := [] :: s.arrivals }

end Sys2Proof.Machine
end

