-- ==== Sys2Proof/Machine/Step.lean ====
section
/-! DEFINITION. One step: "one complete invocation of one host operation; it runs to its return without interleaving with
any other operation of the block" (00_scope.md R7). -/

namespace Sys2Proof.Machine

/-- A configuration that breaks the constraints of R5 is refused. Otherwise the environment's bytes arrive, and the next
call at the command port is executed; with no call pending the block does nothing, since it "acts only when called"
(70_reset_and_hazards.md R175; log entry 13). -/
def step (s : State) : Host.Outcome State Fault Refusal :=
  if s.params.ok then
    match nextCall (deliver s) with
    | none => .next (deliver s)
    | some (.ok (i, s1)) => exec i s1
    | some (.error e) => .refused (.malformedCall e)
  else .refused .inadmissibleParameters

/-- Place the instruction of a table word where the next step takes it: a host operation at the command port, a received
byte in the receive queue with a poll to read it (log entry 12). -/
def State.withFetchWord (s : State) (nbits w : Nat) : State :=
  if isCallWord nbits w then placeCall (callBytes nbits w) s else placeByte (BitVec.ofNat 8 w) s

end Sys2Proof.Machine
end

