-- ==== Sys2Proof/Safety.lean ====
section
/-! DEFINITION. What counts as a safe run, and the words the statements are written in.

The run invariant (10_state.md R24, 20_memory.md R35, R36, 42_receive_state_machine.md R115), and the activity gate's
effect written out as data (40_activity_gate.md R80), apart from the pseudocode the meaning follows. -/

namespace Sys2Proof.Machine

/-! ## The run invariant -/

/-- (I1): "`cursor` is in `{-1, 0..12}`" (R24). -/
abbrev cursorLegal (s : State) : Prop := -1 ≤ s.block.cursor ∧ s.block.cursor ≤ 12

/-- Half way through a byte its upper nibble is zero, so that completing it loses nothing (20_memory.md R35). -/
abbrev halfByteClean (s : State) : Prop :=
  ∀ i : Fin 6, s.block.cursor = 2 * (i.val : Int) + 1 → (s.block.buf[i]).toNat < 16

/-- "the delivered length is 1 to 5; a length of 0 or 6 never occurs" (42_receive_state_machine.md R115). -/
abbrev dispatchesBounded (s : State) : Prop := ∀ d ∈ s.displog, 1 ≤ d.length ∧ d.length ≤ 5

/-- What every step keeps. -/
abbrev Inv (s : State) : Prop :=
  s.params.ok = true ∧ cursorLegal s ∧ halfByteClean s ∧ dispatchesBounded s

/-! ## The gate as data -/

/-- The presence sample the gate will take. -/
def presence (s : State) : Bool := pinAnswer s

/-- The rail level the gate will read, if it reads one. -/
def railLevel (s : State) : Bool := pinAnswer (pinAdvance s)

/-- The pin calls of R80 in order: the three on the presence pin always, the rail read when present, the rail write when
it reads off. -/
def gateCalls (p : Params) (present rail : Bool) : List PinEvent :=
  [.setMode p.pinPresence .inputPullDown, .read p.pinPresence present, .setMode p.pinPresence .input] ++
    (if present then [.read p.pinRail rail] ++ (if rail = p.railOn then [] else [.write p.pinRail p.railOn]) else [])

/-- The state after the gate has been asked: its pin calls recorded, one or two oracle answers used, nothing else. -/
def afterGate (s : State) : State :=
  { s with
    trace := s.trace ++ (gateCalls s.params (presence s) (railLevel s)).map .pin
    pinAnswers := s.pinAnswers.drop (if presence s then 2 else 1)
    pinReads := s.pinReads + (if presence s then 2 else 1) }

/-- The bytes of an operation behind the gate: sent if the gate is active. -/
def ifActive (s : State) (bs : List Byte) : List Event := if presence s then bs.map .tx else []

/-! ## Two states that differ only in stale buffer bytes -/

/-- The two dispatch events say the same about the frame: the same length, and the same bytes up to and including the
checksum slot `buffer[length]` (20_memory.md R41). -/
def sameMessage (d e : DispatchEvent) : Prop :=
  d.length = e.length ∧ ∀ i : Fin 6, i.val ≤ d.length → d.bytes[i] = e.bytes[i]

/-- The bytes of the frame in progress, those some character of it has reached, are the same. -/
def sameFrameBytes (c : Int) (a b : Vector Byte 6) : Prop := ∀ i : Fin 6, 2 * (i.val : Int) < c → a[i] = b[i]

end Sys2Proof.Machine
end

