-- ==== Sys2Proof/Certificates/Slice0/Obligations.lean ====
section
/-! DEFINITION. The statements for the provers. Each docstring names the rule of spec/ it comes from and, where it rests
on a choice of the spec's own (D<n>) or of the model's, the log entry. A conclusion `exec i s = .next t` with `t` written
out as `s` with some fields changed says the result, the completion and the frame at once: every field not named is as
before. -/

open Sys2Proof Sys2Proof.Machine

/-! ## Reset, the invariant, the step -/

/-- 10_state.md R23: the cursor starts idle (the spec's own decision D4, log entry 6), and nothing has been sent,
dispatched or asked of a pin. No clause is about the buffer, whose bytes are free. -/
def Obligations.ResetMachineIsIdleAndSilent : Prop :=
  State.reset.block.cursor = -1 ∧ State.reset.txlog = [] ∧ State.reset.displog = [] ∧ State.reset.pinlog = [] ∧
    State.reset.params.ok = true

/-- The run invariant holds at reset, whatever the free buffer bytes are. It rests on reset values that are choices: the
default markers for the parameters (log entry 3), the idle cursor for the cursor's range and for the half-completed byte
(D4, log entry 6), and the empty trace for the dispatches (log entry 7). -/
def Obligations.ResetSatisfiesRunInvariant : Prop := Inv State.reset

/-- 10_state.md R24 (I1), 20_memory.md R35, 42_receive_state_machine.md R115: a step from any state that meets the
invariant leaves a state that meets it. -/
def Obligations.StepKeepsRunInvariant : Prop :=
  ∀ s t : State, Inv s → step s = .next t → Inv t

/-- The same of every instruction on its own, the received bytes among them. -/
def Obligations.EveryInstructionKeepsRunInvariant : Prop :=
  ∀ (i : Instr) (s t : State), Inv s → exec i s = .next t → Inv t

/-- 00_scope.md R7: a step is one invocation of one host operation. When the bytes at the command port decode to `i`, the
step is `exec i` on the state in which the environment's bytes have arrived and the call's bytes have been taken. The
port and the arrivals are the model's (log entries 9, 10). -/
def Obligations.StepRunsDecodedCall : Prop :=
  ∀ (s : State) (i : Instr) (rest : List Byte), s.params.ok = true → decodeCall s.calls = .ok (i, rest) →
    step s = exec i { s with
      rxq := s.rxq ++ s.arrivals.headD []
      arrivals := s.arrivals.tail
      calls := rest }

/-- 70_reset_and_hazards.md R175, "The block acts only when called": with no call pending, a step changes only what the
environment changes (log entry 13). -/
def Obligations.StepWithoutCallOnlyLetsBytesArrive : Prop :=
  ∀ s : State, s.params.ok = true → s.calls = [] →
    step s = .next { s with rxq := s.rxq ++ s.arrivals.headD [], arrivals := s.arrivals.tail }

/-- 00_scope.md R5 and D2 (log entry 13): a configuration is refused exactly where the markers are equal or one of them
is the code of a hex digit. -/
def Obligations.StepRefusesExactlyInadmissibleMarkers : Prop :=
  ∀ s : State, step s = .refused .inadmissibleParameters ↔
    (s.params.stx = s.params.etx ∨ ∃ n : Nibble, hexchar n = s.params.stx ∨ hexchar n = s.params.etx)

/-- 30_encoding.md R62, U15: operation-select code 7 is no operation and is refused. The numbering is the spec's own
(D16, log entry 10). -/
def Obligations.CodeSevenIsRefused : Prop :=
  ∀ s : State, exec .opSeven s = .refused .noOperation ∧
    (∀ cs : List Byte, s.params.ok = true → s.calls = 0x07 :: cs → step s = .refused .noOperation)

/-- 00_scope.md R5: "None of them can be changed while the block runs". -/
def Obligations.ParametersNeverChange : Prop :=
  (∀ (i : Instr) (s t : State), exec i s = .next t → t.params = s.params) ∧
    ∀ s t : State, step s = .next t → t.params = s.params

/-- 60_exceptions.md R140, "Nothing in the block traps, faults, or reports an error": every instruction but code 7
completes, in every state. -/
def Obligations.EveryInstructionButCodeSevenCompletes : Prop :=
  ∀ (i : Instr) (s : State), i ≠ .opSeven → ∃ t, exec i s = .next t

/-- 20_memory.md R37: no instruction reaches the model's fault, and a received byte changes the buffer only in the
decoding regime. -/
def Obligations.BufferIsNeverAccessedOutOfBounds : Prop :=
  (∀ (i : Instr) (s : State) (f : Fault), exec i s ≠ .fault f) ∧
    ∀ (i : Instr) (s t : State), i.source = .line → exec i s = .next t → t.block.buf ≠ s.block.buf →
      0 ≤ s.block.cursor ∧ s.block.cursor ≤ 11

/-- 20_memory.md R30: a byte written at an index 0 to 5 is read back there and nowhere else; an index above 5 is the
model's fault. -/
def Obligations.BufferReadsBackWhatWasWritten : Prop :=
  ∀ (s : State) (i : Nat) (v : Byte),
    (i ≤ 5 → ∃ t, memWrite i v s = .next t ∧ t = { s with block := { s.block with buf := t.block.buf } } ∧
      (∀ f, memRead i t f = f v) ∧ ∀ j f, j ≠ i → memRead j t f = memRead j s f) ∧
    (5 < i → memWrite i v s = .fault (.bufferIndex i) ∧ ∀ f, memRead i s f = .fault (.bufferIndex i))

/-! ## Encodings -/

/-- Every well-formed instruction, with every operand at every value, is read back from its words, whatever stands behind
them (30_encoding.md R58, R62; the operand layout is the model's, log entry 10). -/
def Obligations.DecodeInvertsEncode : Prop :=
  ∀ (p : Params) (i : Instr) (rest : List Byte), p.ok = true → i.wellFormed p = true →
    decode p i.source (encode p i ++ rest) = .ok (i, rest)

/-- The other direction: what decodes is well formed and is the encoding of what it decodes to. -/
def Obligations.EncodeInvertsDecode : Prop :=
  ∀ (p : Params) (src : Source) (bs rest : List Byte) (i : Instr), decode p src bs = .ok (i, rest) →
    i.wellFormed p = true ∧ i.source = src ∧ encode p i ++ rest = bs

/-- Words of received bytes by 30_encoding.md R52, R53, R58, and of calls. The words of STX and ETX are the default markers,
a choice (D1, log entry 3); the select codes are the spec's own numbering of R62 (D16); the operand byte behind the codes
of sendByte and sendCommand is the model's own layout (log entry 10). -/
def Obligations.SampleWordsDecode : Prop :=
  decodeRx Params.default 0x02 = .rxStx ∧ decodeRx Params.default 0x03 = .rxEtx ∧
    decodeRx Params.default 0x39 = .rxHex9 ∧ decodeRx Params.default 0x41 = .rxHexA ∧
    decodeRx Params.default 0x61 = .rxOther 0x61 ∧ decodeRx Params.default 0x06 = .rxOther 0x06 ∧
    decodeCall [0x00] = .ok (.isPeripheralActive, []) ∧ decodeCall [0x01, 0x41] = .ok (.sendByte 0x41, []) ∧
    decodeCall [0x02] = .ok (.sendAck, []) ∧ decodeCall [0x04, 0x5A] = .ok (.sendCommand 0x5A, []) ∧
    decodeCall [0x06] = .ok (.pollReceive, []) ∧ decodeCall [0x07] = .ok (.opSeven, []) ∧
    (List.range 16).map (fun n => hexInstr (BitVec.ofNat 4 n)) =
      [.rxHex0, .rxHex1, .rxHex2, .rxHex3, .rxHex4, .rxHex5, .rxHex6, .rxHex7,
       .rxHex8, .rxHex9, .rxHexA, .rxHexB, .rxHexC, .rxHexD, .rxHexE, .rxHexF]

/-- 30_encoding.md R58, R59: with admissible markers the classes are disjoint, and each is selected by exactly the byte
values the table gives it. -/
def Obligations.EachByteValueHasOneClass : Prop :=
  ∀ (p : Params) (b : Byte), p.ok = true →
    (decodeRx p b = .rxStx ↔ b = p.stx) ∧ (decodeRx p b = .rxEtx ↔ b = p.etx) ∧
    (∀ n, decodeRx p b = hexInstr n ↔ hexval b = some n) ∧
    ((∃ c, decodeRx p b = .rxOther c) ↔ b ≠ p.stx ∧ b ≠ p.etx ∧ hexval b = none)

/-- 30_encoding.md R52, R53 (the codes are ASCII's, log entry 30): the closed forms, and each function the inverse of the
other on the sixteen codes. -/
def Obligations.HexvalInvertsHexchar : Prop :=
  (∀ n : Nibble, n.toNat ≤ 9 → (hexchar n).toNat = 0x30 + n.toNat) ∧
    (∀ n : Nibble, 10 ≤ n.toNat → (hexchar n).toNat = 0x41 + (n.toNat - 10)) ∧
    (∀ n : Nibble, hexval (hexchar n) = some n) ∧ ∀ (b : Byte) (n : Nibble), hexval b = some n → hexchar n = b

/-- 30_encoding.md R54: a byte as two characters, high nibble first, and two valid characters as a byte. -/
def Obligations.ByteTravelsAsTwoCharacters : Prop :=
  (∀ v : Byte, hexPair v = [hexchar (v.extractLsb 7 4), hexchar (v.extractLsb 3 0)]) ∧
    ∀ (c0 c1 : Byte) (n0 n1 : Nibble), hexval c0 = some n0 → hexval c1 = some n1 →
      (shiftIn (zext8 n0) n1).toNat = 16 * n0.toNat + n1.toNat

/-- 30_encoding.md R55: the 8-bit sum, its value on the rule's two examples, and its place in a frame, over the payload
characters alone. -/
def Obligations.ChecksumIsSumModulo256 : Prop :=
  (∀ S : List Byte, (cksum S).toNat = (S.map BitVec.toNat).sum % 256) ∧
    cksum [0x30, 0x32, 0x36, 0x32] = 0xCA ∧ cksum [0x30, 0x33, 0x30, 0x32, 0x31, 0x30] = 0x26 ∧
    ∀ (p : Params) (h : List Byte), frame p h =
      p.stx :: (h ++ [hexchar (highNibble (cksum h)), hexchar (lowNibble (cksum h)), p.etx])

/-- 41_frame_encoder.md R93: "`frame` is injective in `h` and its length is `|h| + 4`." -/
def Obligations.FrameIsInjectiveOfLengthPlusFour : Prop :=
  ∀ (p : Params) (h h' : List Byte), (frame p h).length = h.length + 4 ∧ (frame p h = frame p h' → h = h')

/-! ## The gate and the encoder -/

/-- 40_activity_gate.md R80: the result is the presence sample; the pin calls are the rule's, in its order. That the rail
is only read and written is the spec's decision D24 (log entry 25), its level the parameter of D14 (log entry 3). -/
def Obligations.PeripheralCheckFollowsPinSequence : Prop :=
  ∀ s : State, exec .isPeripheralActive s = .next { s with
    trace := s.trace ++ (gateCalls s.params (presence s) (railLevel s)).map .pin
    pinAnswers := s.pinAnswers.drop (if presence s then 2 else 1)
    pinReads := s.pinReads + (if presence s then 2 else 1)
    result := some (.bool (presence s)) }

/-- 40_activity_gate.md R80, 20_memory.md R40, with PIN_PRESENCE and PIN_RAIL any two distinct identifiers (D14, log entry
21): the gate leaves the presence pin in plain input mode and does not drive it; it leaves the rail pin's mode alone (D24,
log entry 25) and drives it on exactly if the peripheral is present and the rail reads off; no other pin is touched. -/
def Obligations.GateLeavesPinsAsItsContractSays : Prop :=
  ∀ s : State, s.params.pinPresence ≠ s.params.pinRail →
    ∃ t, exec .isPeripheralActive s = .next t ∧
      t.pinMode s.params.pinPresence = some .input ∧ t.pinDriven s.params.pinPresence = s.pinDriven s.params.pinPresence ∧
      t.pinMode s.params.pinRail = s.pinMode s.params.pinRail ∧
      t.pinDriven s.params.pinRail =
        (if presence s = true ∧ railLevel s ≠ s.params.railOn then some s.params.railOn
        else s.pinDriven s.params.pinRail) ∧
      ∀ q : Pin, q ≠ s.params.pinPresence → q ≠ s.params.pinRail →
        t.pinMode q = s.pinMode q ∧ t.pinDriven q = s.pinDriven q

/-- 41_frame_encoder.md R90: one byte appended, any value, no pin touched, nothing else changed. -/
def Obligations.SendByteAppendsOneByteUngated : Prop :=
  ∀ (b : Byte) (s : State),
    exec (.sendByte b) s = .next { s with trace := s.trace ++ [.tx b], result := some .unit }

/-- 41_frame_encoder.md R91: the gate once, then ACK if it is active. -/
def Obligations.SendAckWritesAckIfActive : Prop :=
  ∀ s : State, exec .sendAck s = .next { afterGate s with
    trace := (afterGate s).trace ++ (if presence s then [.tx s.params.ack] else [])
    result := some .unit }

/-- 41_frame_encoder.md R92, R93, gated: the gate once, before the first byte; then exactly the frame, or nothing. For
every byte sequence, of any length (30_encoding.md R66). -/
def Obligations.GatedHexStringSendsFrameOrNothing : Prop :=
  ∀ (h : List Byte) (s : State), exec (.sendHexString h true) s = .next { afterGate s with
    trace := (afterGate s).trace ++ (if presence s then (frame s.params h).map .tx else [])
    result := some .unit }

/-- 41_frame_encoder.md R92 (a), not gated: exactly the frame, and no pin touched (D11, log entry 23). -/
def Obligations.UngatedHexStringAlwaysSendsFrame : Prop :=
  ∀ (h : List Byte) (s : State), exec (.sendHexString h false) s = .next { s with
    trace := s.trace ++ (frame s.params h).map .tx
    result := some .unit }

/-- 41_frame_encoder.md R94: the six-byte frame of the byte's two characters; gated by D12 (log entry 24). -/
def Obligations.SendCommandSendsSixByteFrame : Prop :=
  ∀ (v : Byte) (s : State), exec (.sendCommand v) s = .next { afterGate s with
    trace := (afterGate s).trace ++ (if presence s then
      ([s.params.stx, hexchar (v.extractLsb 7 4), hexchar (v.extractLsb 3 0),
        hexchar (highNibble (hexchar (v.extractLsb 7 4) + hexchar (v.extractLsb 3 0))),
        hexchar (lowNibble (hexchar (v.extractLsb 7 4) + hexchar (v.extractLsb 3 0))), s.params.etx] : List Byte).map .tx
      else [])
    result := some .unit }

/-- 41_frame_encoder.md R95: each of the three states sends its command string, gated (D12, log entry 24), and the
result is true whether or not anything was sent. -/
def Obligations.AlarmStatesSendTheirCommandFrames : Prop :=
  ∀ (s : State) (a : AlarmState) (h : Vector Byte 6),
    (a = .alarm ∧ h = s.params.cmdAlarm ∨ a = .testAlarm ∧ h = s.params.cmdTestAlarm ∨
      a = .noAlarm ∧ h = s.params.cmdNoAlarm) →
    exec (.setAlarmState (.known a)) s = .next { afterGate s with
      trace := (afterGate s).trace ++ (if presence s then (frame s.params h.toList).map .tx else [])
      result := some (.bool true) }

/-- 41_frame_encoder.md R95 (b), (c): an unknown state sends nothing, does not call the gate, and returns true. -/
def Obligations.UnknownAlarmStateIsANoOp : Prop :=
  ∀ (v : Byte) (s : State),
    exec (.setAlarmState (.unknown v)) s = .next { s with result := some (.bool true) }

/-- 40_activity_gate.md R81, R82, R84: with the gate inactive every instruction but the two that are not gated, a poll and
a received byte among them, completes and writes no byte; and of the gated operations only the three calls on the presence
pin happen. -/
def Obligations.InactiveGateMeansNoByteWritten : Prop :=
  ∀ (i : Instr) (s : State), presence s = false → i ≠ .opSeven → (∀ b, i ≠ .sendByte b) →
    (∀ h, i ≠ .sendHexString h false) →
    ∃ t, exec i s = .next t ∧ t.txlog = s.txlog ∧
      ((i = .sendAck ∨ (∃ h, i = .sendHexString h true) ∨ (∃ v, i = .sendCommand v) ∨
          ∃ a, i = .setAlarmState (.known a)) →
        t.block = s.block ∧ t.pinlog = s.pinlog ++
          [.setMode s.params.pinPresence .inputPullDown, .read s.params.pinPresence false,
            .setMode s.params.pinPresence .input])

/-- 41_frame_encoder.md R97: the operations other than pollReceive leave the receiver's state and every queue alone, and
what they add to the trace depends on neither of them, nor on what was sent before. -/
def Obligations.EncoderIsStatelessAndLeavesReceiverAlone : Prop :=
  ∀ (i : Instr) (s t : State), i.source = .port → i ≠ .pollReceive → exec i s = .next t →
    t.block = s.block ∧ t.params = s.params ∧ t.rxq = s.rxq ∧ t.arrivals = s.arrivals ∧ t.calls = s.calls ∧
    t.displog = s.displog ∧ ∃ added : List Event, t.trace = s.trace ++ added ∧
      ∀ (b : Block) (q : List Byte) (tr : List Event),
        exec i { s with block := b, rxq := q, trace := tr } =
          .next { t with block := b, rxq := q, trace := tr ++ added }

/-! ## Received bytes -/

/-- 42_receive_state_machine.md R113: in the idle regime the start marker starts a frame and every other byte, the end
marker and the hex digits among them, is discarded; in both cases the poll goes on (`result` none). Constructors: rxStx,
rxEtx, rxHex0 to rxHexF, rxOther. -/
def Obligations.IdleRegimeSearchesForStartMarker : Prop :=
  ∀ (i : Instr) (s : State), s.params.ok = true → i.wellFormed s.params = true → i.source = .line →
    s.block.cursor < 0 →
    exec i s = .next { s with
      block := { s.block with cursor := if i = .rxStx then 0 else s.block.cursor }
      result := none }

/-- 42_receive_state_machine.md R114, R115: in the decoding and overflow regimes the end marker acknowledges (gated),
dispatches the six bytes with length `k - 1` if at least two bytes were decoded, and goes idle, in this order; the poll
returns true; bytes behind it stay queued. -/
def Obligations.EndMarkerAcknowledgesDispatchesAndGoesIdle : Prop :=
  ∀ s : State, 0 ≤ s.block.cursor → ∃ st, exec .rxEtx s = .next { afterGate s with
    block := { s.block with cursor := -1 }
    trace := (afterGate s).trace ++ (if presence s then [.tx s.params.ack] else []) ++
      (if 4 ≤ s.block.cursor then
        [.dispatch { bytes := s.block.buf, length := (s.block.cursor / 2).toNat - 1 }] else [])
    result := some (.poll true st) }

/-- 42_receive_state_machine.md R116: in the overflow regime any byte but the end marker is dropped with nothing changed,
and the poll returns true. Constructors: rxStx, rxHex0 to rxHexF, rxOther. -/
def Obligations.OverflowRegimeDropsTheByte : Prop :=
  ∀ (i : Instr) (s : State), s.params.ok = true → i.wellFormed s.params = true → i.source = .line → i ≠ .rxEtx →
    12 ≤ s.block.cursor → ∃ st, exec i s = .next { s with result := some (.poll true st) }

/-- 42_receive_state_machine.md R116 (b), 70_reset_and_hazards.md R179 (derived there): each poll in the overflow regime
consumes exactly one byte other than the end marker, however many are waiting. -/
def Obligations.OverflowDrainsOneBytePerPoll : Prop :=
  ∀ (s : State) (b : Byte) (q : List Byte), 12 ≤ s.block.cursor → s.rxq = b :: q → b ≠ s.params.etx →
    ∃ st, exec .pollReceive s = .next { s with rxq := q, result := some (.poll true st) }

/-- 42_receive_state_machine.md R117, R123: in the decoding regime a start marker or a byte of class OTHER ends the poll;
the cursor stays under Preserve and goes idle under ResetToIdle (D6, log entry 29). Constructors: rxStx, rxOther. -/
def Obligations.InvalidByteEndsThePoll : Prop :=
  ∀ (i : Instr) (s : State), s.params.ok = true → i.wellFormed s.params = true →
    (i = .rxStx ∨ ∃ b, i = .rxOther b) → 0 ≤ s.block.cursor → s.block.cursor ≤ 11 →
    ∃ st, exec i s = .next { s with
      block := { s.block with
        cursor := if s.params.policy = .preserve then s.block.cursor else -1 }
      result := some (.poll true st) }

/-- 42_receive_state_machine.md R118, R120: at an even cursor `2 i` the hex digit is stored as a whole byte at index `i`
and the cursor advances; the poll goes on. `hexInstr n` is rxHex0 to rxHexF. -/
def Obligations.EvenCursorStartsAByte : Prop :=
  ∀ (n : Nibble) (s : State) (i : Fin 6), s.params.ok = true → s.block.cursor = 2 * (i.val : Int) →
    exec (hexInstr n) s = .next { s with
      block := { cursor := s.block.cursor + 1, buf := s.block.buf.set i.val (n.setWidth 8) i.isLt }
      result := none }

/-- 42_receive_state_machine.md R119, R120: at an odd cursor `2 i + 1` the byte at index `i` is shifted left four bits and
the nibble ORed in, and the cursor advances; the poll goes on. `hexInstr n` is rxHex0 to rxHexF. -/
def Obligations.OddCursorCompletesTheByte : Prop :=
  ∀ (n : Nibble) (s : State) (i : Fin 6), s.params.ok = true → s.block.cursor = 2 * (i.val : Int) + 1 →
    exec (hexInstr n) s = .next { s with
      block := { cursor := s.block.cursor + 1
                 buf := s.block.buf.set i.val ((s.block.buf[i] <<< 4) ||| n.setWidth 8) i.isLt }
      result := none }

/-- 20_memory.md R35: in a state a run can reach, completing a byte loses nothing; the byte is the two nibbles in arrival
order. -/
def Obligations.CompletedByteIsItsTwoNibbles : Prop :=
  ∀ (n : Nibble) (s : State) (i : Fin 6), Inv s → s.block.cursor = 2 * (i.val : Int) + 1 →
    ∃ t, exec (hexInstr n) s = .next t ∧ (t.block.buf[i]).toNat = 16 * (s.block.buf[i]).toNat + n.toNat

/-- 60_exceptions.md R153, 70_reset_and_hazards.md R173: from mid-frame a received byte takes the machine idle only if it
is the end marker, or under ResetToIdle an invalid byte in the decoding regime. -/
def Obligations.OnlyEndMarkerOrPolicyLeavesAFrame : Prop :=
  ∀ (i : Instr) (s t : State), s.params.ok = true → i.wellFormed s.params = true → i.source = .line →
    exec i s = .next t → 0 ≤ s.block.cursor → t.block.cursor < 0 →
    i = .rxEtx ∨ (s.params.policy = .resetToIdle ∧ s.block.cursor ≤ 11 ∧ (i = .rxStx ∨ ∃ b, i = .rxOther b))

/-! ## Polls -/

/-- 42_receive_state_machine.md R111: an idle poll returns true and changes nothing, in whatever regime. -/
def Obligations.IdlePollChangesNothing : Prop :=
  ∀ s : State, s.rxq = [] → ∃ st, exec .pollReceive s = .next { s with result := some (.poll true st) }

/-- 42_receive_state_machine.md R112, R122: a poll with a byte waiting takes the oldest one and runs the instruction of
its class; if that ends the poll, so it ends; otherwise the rest of the queue is polled, and with none left the poll
returns (R121, status AwaitingMore by D17, log entry 18). -/
def Obligations.PollRunsTheClassOfEachByte : Prop :=
  ∀ (s : State) (b : Byte) (q : List Byte), s.params.ok = true → s.rxq = b :: q →
    ∃ t, exec (decodeRx s.params b) { s with rxq := q } = .next t ∧
      exec .pollReceive s =
        (match t.result with
        | some _ => .next t
        | none => if q = [] then .next { t with result := some (.poll true .awaitingMore) } else exec .pollReceive t)

/-- 42_receive_state_machine.md R124: the Boolean result is true on every return path, in every state. -/
def Obligations.PollAlwaysReturnsTrue : Prop :=
  ∀ s : State, ∃ t st, exec .pollReceive s = .next t ∧ t.result = some (.poll true st)

/-- 42_receive_state_machine.md R124, the optional status, assigned to the return paths by D17 (log entry 18). -/
def Obligations.StatusNamesTheReturnPath : Prop :=
  ∀ (s : State) (b : Byte),
    (∃ t, exec .pollReceive { s with rxq := [] } = .next t ∧ t.result = some (.poll true .idle)) ∧
    ∃ u, exec .pollReceive { s with rxq := [b] } = .next u ∧
      u.result = some (.poll true
        (if 0 ≤ s.block.cursor ∧ b = s.params.etx then
          (if 4 ≤ s.block.cursor then .frameComplete else .frameDropped)
        else if 0 ≤ s.block.cursor ∧ s.block.cursor ≤ 11 ∧ hexval b = none ∧ s.params.policy = .resetToIdle then
          .frameDropped
        else .awaitingMore))

/-- 20_memory.md R44: a poll reads the bytes it processes from the head of the queue and leaves the rest; with a byte
waiting it reads at least one. -/
def Obligations.PollConsumesAPrefixOfTheQueue : Prop :=
  ∀ s t : State, exec .pollReceive s = .next t →
    ∃ used, s.rxq = used ++ t.rxq ∧ (s.rxq ≠ [] → used ≠ [])

/-- 42_receive_state_machine.md R121, 20_memory.md R44: a frame may arrive in pieces. If a poll of `q1 ++ q2` reads past
`q1`, a poll of `q1` alone reads all of it, and a second poll, of `q2`, ends where the one poll ended. -/
def Obligations.SplitArrivalDecodesTheSame : Prop :=
  ∀ (s t : State) (q1 q2 : List Byte), q1 ≠ [] → exec .pollReceive { s with rxq := q1 ++ q2 } = .next t →
    t.rxq.length < q2.length →
    ∃ u, exec .pollReceive { s with rxq := q1 } = .next u ∧ u.rxq = [] ∧
      exec .pollReceive { u with rxq := q2 } = .next t

/-- 70_reset_and_hazards.md R176: one poll ends at most one frame. What it adds to the trace is nothing, or the gate's
calls, the acknowledgment if active, and at most one dispatch, with length 1 to 5, and then the machine is idle. The
premise is the upper half of the invariant's cursorLegal, which a dispatched length of at most 5 needs. The caller's and
the environment's other fields are untouched. -/
def Obligations.OnePollEndsAtMostOneFrame : Prop :=
  ∀ s t : State, s.block.cursor ≤ 12 → exec .pollReceive s = .next t →
    t.params = s.params ∧ t.arrivals = s.arrivals ∧ t.calls = s.calls ∧
    (t.trace = s.trace ∧ t.pinAnswers = s.pinAnswers ∧ t.pinReads = s.pinReads ∨
      t.block.cursor = -1 ∧ t.pinAnswers = (afterGate s).pinAnswers ∧ t.pinReads = (afterGate s).pinReads ∧
      ∃ ds, t.trace = (afterGate s).trace ++ (if presence s then [.tx s.params.ack] else []) ++ ds ∧
        (ds = [] ∨ ∃ n, 1 ≤ n ∧ n ≤ 5 ∧ ds = [.dispatch { bytes := t.block.buf, length := n }]))

/-- 60_exceptions.md R146, 70_reset_and_hazards.md R177: while no end marker arrives, a machine in mid-frame under
Preserve stays in mid-frame, and sends and dispatches nothing. -/
def Obligations.LostEndMarkerKeepsMachineInFrame : Prop :=
  ∀ s t : State, s.params.policy = .preserve → 0 ≤ s.block.cursor → s.params.etx ∉ s.rxq →
    exec .pollReceive s = .next t → s.block.cursor ≤ t.block.cursor ∧ t.trace = s.trace

/-- 40_activity_gate.md R84: whatever the pins answer, a poll decodes, dispatches, consumes and returns the same. -/
def Obligations.GateDoesNotAffectReception : Prop :=
  ∀ (s t : State) (answers : List Bool) (reads : Nat), exec .pollReceive s = .next t →
    ∃ t', exec .pollReceive { s with pinAnswers := answers, pinReads := reads } = .next t' ∧
      t'.block = t.block ∧ t'.rxq = t.rxq ∧ t'.displog = t.displog ∧ t'.result = t.result

/-- 20_memory.md R36, 70_reset_and_hazards.md R171: buffer bytes the frame in progress has not written (reset's, or left
by earlier frames) change neither what a poll decodes nor what it sends, and in what it dispatches they are seen only
beyond `buffer[length]`. -/
def Obligations.StaleBytesNeverEnterAMessage : Prop :=
  ∀ (s t : State) (b : Vector Byte 6), sameFrameBytes s.block.cursor s.block.buf b →
    exec .pollReceive s = .next t →
    ∃ t', exec .pollReceive { s with block := { s.block with buf := b } } = .next t' ∧
      t'.block.cursor = t.block.cursor ∧ sameFrameBytes t.block.cursor t.block.buf t'.block.buf ∧
      t'.rxq = t.rxq ∧ t'.result = t.result ∧ t'.txlog = t.txlog ∧ t'.pinlog = t.pinlog ∧
      ∃ ds ds', t.displog = s.displog ++ ds ∧ t'.displog = s.displog ++ ds' ∧ List.Forall₂ sameMessage ds ds'

/-! ## Whole frames -/

/-- 42_receive_state_machine.md R110, 20_memory.md R34, R41, 10_state.md R13: an idle machine polled on a frame of at most
12 hex characters, even or odd in number, decodes it: byte `i` is the characters `2 i` and `2 i + 1`, a lone last nibble
is stored zero-extended and not counted, the other bytes keep their old content; it acknowledges, dispatches if there
were at least four characters, goes idle, and leaves what stands behind the end marker. -/
def Obligations.PollDecodesAnyFrameUpToTwelveCharacters : Prop :=
  ∀ (s : State) (ns : List Nibble) (rest : List Byte), s.params.ok = true → s.block.cursor < 0 → ns.length ≤ 12 →
    s.rxq = s.params.stx :: (ns.map hexchar ++ s.params.etx :: rest) →
    ∃ t, exec .pollReceive s = .next t ∧ t.block.cursor = -1 ∧ t.rxq = rest ∧
      t.trace = (afterGate s).trace ++ (if presence s then [.tx s.params.ack] else []) ++
        (if 4 ≤ ns.length then [.dispatch { bytes := t.block.buf, length := ns.length / 2 - 1 }] else []) ∧
      ∀ i : Fin 6,
        (∀ hi lo, ns[2 * i.val]? = some hi → ns[2 * i.val + 1]? = some lo →
          (t.block.buf[i]).toNat = 16 * hi.toNat + lo.toNat) ∧
        (∀ n, ns[2 * i.val]? = some n → ns.length = 2 * i.val + 1 → t.block.buf[i] = n.setWidth 8) ∧
        (ns.length ≤ 2 * i.val → t.block.buf[i] = s.block.buf[i])

/-- 41_frame_encoder.md R99: the encoder's frame of a payload of 1 to 5 bytes, polled by an idle machine, gives one
acknowledgment attempt and one dispatch, of the payload with its length, the checksum byte behind it. -/
def Obligations.EncoderFrameRoundTrips : Prop :=
  ∀ (s : State) (P rest : List Byte), s.params.ok = true → s.block.cursor < 0 → 1 ≤ P.length → P.length ≤ 5 →
    s.rxq = frame s.params (hexOf P) ++ rest →
    ∃ t, exec .pollReceive s = .next t ∧ t.block.cursor = -1 ∧ t.rxq = rest ∧
      t.trace = (afterGate s).trace ++ (if presence s then [.tx s.params.ack] else []) ++
        [.dispatch { bytes := t.block.buf, length := P.length }] ∧
      t.block.buf.toList.take P.length = P ∧ t.block.buf[P.length]? = some (cksum (hexOf P)) ∧
      rxChecksumOk t.block.buf P.length = true

/-- 41_frame_encoder.md R99, 90_conflicts.md C3: a payload of 6 bytes overflows; it takes three polls, the delivered
length is 5, and all six payload bytes are in the buffer. -/
def Obligations.SixBytePayloadIsDeliveredWithLengthFive : Prop :=
  ∀ (s : State) (P : List Byte), s.params.ok = true → s.block.cursor < 0 → P.length = 6 →
    s.rxq = frame s.params (hexOf P) →
    ∃ t1 t2 t3, exec .pollReceive s = .next t1 ∧ exec .pollReceive t1 = .next t2 ∧ exec .pollReceive t2 = .next t3 ∧
      t2.trace = s.trace ∧ t2.block.cursor = 12 ∧ t3.block.cursor = -1 ∧ t3.rxq = [] ∧
      t3.trace = (afterGate s).trace ++ (if presence s then [.tx s.params.ack] else []) ++
        [.dispatch { bytes := t3.block.buf, length := 5 }] ∧
      t3.block.buf.toList = P

/-- 41_frame_encoder.md R99, 90_conflicts.md C3: the frame of an empty payload is acknowledged and not dispatched. -/
def Obligations.EmptyPayloadIsAcknowledgedNotDispatched : Prop :=
  ∀ (s : State) (rest : List Byte), s.params.ok = true → s.block.cursor < 0 →
    s.rxq = frame s.params [] ++ rest →
    ∃ t, exec .pollReceive s = .next t ∧ t.block.cursor = -1 ∧ t.rxq = rest ∧ t.displog = s.displog ∧
      t.txlog = s.txlog ++ (if presence s then [s.params.ack] else [])

/-- 20_memory.md R43, 60_exceptions.md R152, 90_conflicts.md C6: an acknowledged dispatch stands behind its
acknowledgment in the trace, and a frame with a wrong checksum is acknowledged and dispatched like a right one: the
outcome of a poll of a whole frame of four characters or more does not compare the checksum characters with anything. -/
def Obligations.WrongChecksumIsNotCaught : Prop :=
  ∀ (s : State) (P : List Byte) (k : Byte), s.params.ok = true → s.block.cursor < 0 → 1 ≤ P.length → P.length ≤ 5 →
    s.rxq = s.params.stx :: (hexOf P ++ hexPair k ++ [s.params.etx]) →
    ∃ t, exec .pollReceive s = .next t ∧ t.block.cursor = -1 ∧
      t.trace = (afterGate s).trace ++ (if presence s then [.tx s.params.ack] else []) ++
        [.dispatch { bytes := t.block.buf, length := P.length }] ∧
      t.block.buf.toList.take P.length = P ∧ (rxChecksumOk t.block.buf P.length = true ↔ k = cksum (hexOf P))
end

