-- ==== Sys2Proof/Laws/State.lean ====
section
/-! SUPPORT. One lemma per field per update of the state, true by rfl, and the views of the trace. -/

namespace Sys2Proof.Machine

@[simp] theorem State.setCursor_cursor (s : State) (c : Int) : (s.setCursor c).block.cursor = c := rfl
@[simp] theorem State.setCursor_buf (s : State) (c : Int) : (s.setCursor c).block.buf = s.block.buf := rfl
@[simp] theorem State.setCursor_params (s : State) (c : Int) : (s.setCursor c).params = s.params := rfl
@[simp] theorem State.setCursor_rxq (s : State) (c : Int) : (s.setCursor c).rxq = s.rxq := rfl
@[simp] theorem State.setCursor_trace (s : State) (c : Int) : (s.setCursor c).trace = s.trace := rfl
@[simp] theorem State.setCursor_pinAnswers (s : State) (c : Int) : (s.setCursor c).pinAnswers = s.pinAnswers := rfl
@[simp] theorem State.setCursor_pinReads (s : State) (c : Int) : (s.setCursor c).pinReads = s.pinReads := rfl
@[simp] theorem State.setCursor_arrivals (s : State) (c : Int) : (s.setCursor c).arrivals = s.arrivals := rfl
@[simp] theorem State.setCursor_calls (s : State) (c : Int) : (s.setCursor c).calls = s.calls := rfl
@[simp] theorem State.setCursor_result (s : State) (c : Int) : (s.setCursor c).result = s.result := rfl

@[simp] theorem State.setBuf_cursor (s : State) (b : Vector Byte 6) : (s.setBuf b).block.cursor = s.block.cursor := rfl
@[simp] theorem State.setBuf_buf (s : State) (b : Vector Byte 6) : (s.setBuf b).block.buf = b := rfl
@[simp] theorem State.setBuf_params (s : State) (b : Vector Byte 6) : (s.setBuf b).params = s.params := rfl
@[simp] theorem State.setBuf_rxq (s : State) (b : Vector Byte 6) : (s.setBuf b).rxq = s.rxq := rfl
@[simp] theorem State.setBuf_trace (s : State) (b : Vector Byte 6) : (s.setBuf b).trace = s.trace := rfl
@[simp] theorem State.setBuf_pinAnswers (s : State) (b : Vector Byte 6) : (s.setBuf b).pinAnswers = s.pinAnswers := rfl
@[simp] theorem State.setBuf_pinReads (s : State) (b : Vector Byte 6) : (s.setBuf b).pinReads = s.pinReads := rfl
@[simp] theorem State.setBuf_arrivals (s : State) (b : Vector Byte 6) : (s.setBuf b).arrivals = s.arrivals := rfl
@[simp] theorem State.setBuf_calls (s : State) (b : Vector Byte 6) : (s.setBuf b).calls = s.calls := rfl
@[simp] theorem State.setBuf_result (s : State) (b : Vector Byte 6) : (s.setBuf b).result = s.result := rfl

@[simp] theorem State.setRxq_cursor (s : State) (q : List Byte) : (s.setRxq q).block.cursor = s.block.cursor := rfl
@[simp] theorem State.setRxq_buf (s : State) (q : List Byte) : (s.setRxq q).block.buf = s.block.buf := rfl
@[simp] theorem State.setRxq_params (s : State) (q : List Byte) : (s.setRxq q).params = s.params := rfl
@[simp] theorem State.setRxq_rxq (s : State) (q : List Byte) : (s.setRxq q).rxq = q := rfl
@[simp] theorem State.setRxq_trace (s : State) (q : List Byte) : (s.setRxq q).trace = s.trace := rfl
@[simp] theorem State.setRxq_pinAnswers (s : State) (q : List Byte) : (s.setRxq q).pinAnswers = s.pinAnswers := rfl
@[simp] theorem State.setRxq_pinReads (s : State) (q : List Byte) : (s.setRxq q).pinReads = s.pinReads := rfl
@[simp] theorem State.setRxq_arrivals (s : State) (q : List Byte) : (s.setRxq q).arrivals = s.arrivals := rfl
@[simp] theorem State.setRxq_calls (s : State) (q : List Byte) : (s.setRxq q).calls = s.calls := rfl
@[simp] theorem State.setRxq_result (s : State) (q : List Byte) : (s.setRxq q).result = s.result := rfl

@[simp] theorem State.emit_cursor (s : State) (e : Event) : (s.emit e).block.cursor = s.block.cursor := rfl
@[simp] theorem State.emit_buf (s : State) (e : Event) : (s.emit e).block.buf = s.block.buf := rfl
@[simp] theorem State.emit_params (s : State) (e : Event) : (s.emit e).params = s.params := rfl
@[simp] theorem State.emit_rxq (s : State) (e : Event) : (s.emit e).rxq = s.rxq := rfl
@[simp] theorem State.emit_trace (s : State) (e : Event) : (s.emit e).trace = s.trace ++ [e] := rfl
@[simp] theorem State.emit_pinAnswers (s : State) (e : Event) : (s.emit e).pinAnswers = s.pinAnswers := rfl
@[simp] theorem State.emit_pinReads (s : State) (e : Event) : (s.emit e).pinReads = s.pinReads := rfl
@[simp] theorem State.emit_arrivals (s : State) (e : Event) : (s.emit e).arrivals = s.arrivals := rfl
@[simp] theorem State.emit_calls (s : State) (e : Event) : (s.emit e).calls = s.calls := rfl
@[simp] theorem State.emit_result (s : State) (e : Event) : (s.emit e).result = s.result := rfl

@[simp] theorem State.ret_cursor (s : State) (r : Result) : (s.ret r).block.cursor = s.block.cursor := rfl
@[simp] theorem State.ret_buf (s : State) (r : Result) : (s.ret r).block.buf = s.block.buf := rfl
@[simp] theorem State.ret_params (s : State) (r : Result) : (s.ret r).params = s.params := rfl
@[simp] theorem State.ret_rxq (s : State) (r : Result) : (s.ret r).rxq = s.rxq := rfl
@[simp] theorem State.ret_trace (s : State) (r : Result) : (s.ret r).trace = s.trace := rfl
@[simp] theorem State.ret_pinAnswers (s : State) (r : Result) : (s.ret r).pinAnswers = s.pinAnswers := rfl
@[simp] theorem State.ret_pinReads (s : State) (r : Result) : (s.ret r).pinReads = s.pinReads := rfl
@[simp] theorem State.ret_arrivals (s : State) (r : Result) : (s.ret r).arrivals = s.arrivals := rfl
@[simp] theorem State.ret_calls (s : State) (r : Result) : (s.ret r).calls = s.calls := rfl
@[simp] theorem State.ret_result (s : State) (r : Result) : (s.ret r).result = some r := rfl

@[simp] theorem State.running_cursor (s : State) : s.running.block.cursor = s.block.cursor := rfl
@[simp] theorem State.running_buf (s : State) : s.running.block.buf = s.block.buf := rfl
@[simp] theorem State.running_params (s : State) : s.running.params = s.params := rfl
@[simp] theorem State.running_rxq (s : State) : s.running.rxq = s.rxq := rfl
@[simp] theorem State.running_trace (s : State) : s.running.trace = s.trace := rfl
@[simp] theorem State.running_pinAnswers (s : State) : s.running.pinAnswers = s.pinAnswers := rfl
@[simp] theorem State.running_pinReads (s : State) : s.running.pinReads = s.pinReads := rfl
@[simp] theorem State.running_arrivals (s : State) : s.running.arrivals = s.arrivals := rfl
@[simp] theorem State.running_calls (s : State) : s.running.calls = s.calls := rfl
@[simp] theorem State.running_result (s : State) : s.running.result = none := rfl

@[simp] theorem pinAdvance_cursor (s : State) : (pinAdvance s).block.cursor = s.block.cursor := rfl
@[simp] theorem pinAdvance_buf (s : State) : (pinAdvance s).block.buf = s.block.buf := rfl
@[simp] theorem pinAdvance_params (s : State) : (pinAdvance s).params = s.params := rfl
@[simp] theorem pinAdvance_rxq (s : State) : (pinAdvance s).rxq = s.rxq := rfl
@[simp] theorem pinAdvance_trace (s : State) : (pinAdvance s).trace = s.trace := rfl
@[simp] theorem pinAdvance_pinAnswers (s : State) : (pinAdvance s).pinAnswers = s.pinAnswers.tail := rfl
@[simp] theorem pinAdvance_pinReads (s : State) : (pinAdvance s).pinReads = s.pinReads + 1 := rfl
@[simp] theorem pinAdvance_arrivals (s : State) : (pinAdvance s).arrivals = s.arrivals := rfl
@[simp] theorem pinAdvance_calls (s : State) : (pinAdvance s).calls = s.calls := rfl
@[simp] theorem pinAdvance_result (s : State) : (pinAdvance s).result = s.result := rfl

/-! ## The views of the trace -/

@[simp] theorem Event.txByte_tx (b : Byte) : (Event.tx b).txByte = some b := rfl
@[simp] theorem Event.txByte_pin (e : PinEvent) : (Event.pin e).txByte = none := rfl
@[simp] theorem Event.txByte_dispatch (d : DispatchEvent) : (Event.dispatch d).txByte = none := rfl
@[simp] theorem Event.message_tx (b : Byte) : (Event.tx b).message = none := rfl
@[simp] theorem Event.message_pin (e : PinEvent) : (Event.pin e).message = none := rfl
@[simp] theorem Event.message_dispatch (d : DispatchEvent) : (Event.dispatch d).message = some d := rfl
@[simp] theorem Event.pinCall_tx (b : Byte) : (Event.tx b).pinCall = none := rfl
@[simp] theorem Event.pinCall_pin (e : PinEvent) : (Event.pin e).pinCall = some e := rfl
@[simp] theorem Event.pinCall_dispatch (d : DispatchEvent) : (Event.dispatch d).pinCall = none := rfl

/-- What is appended to the trace is appended to the views. -/
theorem txlog_append {s t : State} {l : List Event} (h : t.trace = s.trace ++ l) :
    t.txlog = s.txlog ++ l.filterMap Event.txByte := by
  simp [State.txlog, h]

theorem displog_append {s t : State} {l : List Event} (h : t.trace = s.trace ++ l) :
    t.displog = s.displog ++ l.filterMap Event.message := by
  simp [State.displog, h]

theorem pinlog_append {s t : State} {l : List Event} (h : t.trace = s.trace ++ l) :
    t.pinlog = s.pinlog ++ l.filterMap Event.pinCall := by
  simp [State.pinlog, h]

/-- A pin's mode and drive are the last the new events set, and with none among them what they were. -/
theorem pinMode_append {s t : State} {l : List Event} (h : t.trace = s.trace ++ l) (p : Pin) :
    t.pinMode p = ((l.filterMap Event.pinCall).filterMap (PinEvent.modeOf p)).getLast?.or (s.pinMode p) := by
  simp only [State.pinMode, pinlog_append h, List.filterMap_append, List.getLast?_append]

theorem pinDriven_append {s t : State} {l : List Event} (h : t.trace = s.trace ++ l) (p : Pin) :
    t.pinDriven p = ((l.filterMap Event.pinCall).filterMap (PinEvent.drives p)).getLast?.or (s.pinDriven p) := by
  simp only [State.pinDriven, pinlog_append h, List.filterMap_append, List.getLast?_append]

/-- Runs of events of one kind, through each view. -/
theorem filterMap_message_pins (l : List PinEvent) : (l.map Event.pin).filterMap Event.message = [] := by
  induction l <;> simp_all

theorem filterMap_message_txs (l : List Byte) : (l.map Event.tx).filterMap Event.message = [] := by
  induction l <;> simp_all

theorem filterMap_txByte_pins (l : List PinEvent) : (l.map Event.pin).filterMap Event.txByte = [] := by
  induction l <;> simp_all

theorem filterMap_txByte_txs (l : List Byte) : (l.map Event.tx).filterMap Event.txByte = l := by
  induction l <;> simp_all

theorem filterMap_pinCall_pins (l : List PinEvent) : (l.map Event.pin).filterMap Event.pinCall = l := by
  induction l <;> simp_all

theorem filterMap_pinCall_txs (l : List Byte) : (l.map Event.tx).filterMap Event.pinCall = [] := by
  induction l <;> simp_all

end Sys2Proof.Machine
end

