-- ==== Sys2Proof/Laws/Ops.lean ====
section
/-! SUPPORT. For each shared operation, one lemma that says everything it can do; the provers cite these instead of
unfolding the operations. -/

namespace Sys2Proof.Machine

/-! ## Hex codes and the configuration check -/

theorem isHexCode_iff (b : Byte) :
    isHexCode b = true ↔ (0x30 ≤ b.toNat ∧ b.toNat ≤ 0x39) ∨ (0x41 ≤ b.toNat ∧ b.toNat ≤ 0x46) := by
  simp [isHexCode]

/-- `hexval` is `invalid` exactly off the sixteen codes (30_encoding.md R53). -/
theorem hexval_eq_none_iff (b : Byte) : hexval b = none ↔ isHexCode b = false := by
  rw [← Bool.not_eq_true, isHexCode_iff]
  unfold hexval
  split_ifs with h1 h2 <;> simp <;> omega

theorem params_ok_iff (p : Params) :
    p.ok = true ↔ p.stx ≠ p.etx ∧ isHexCode p.stx = false ∧ isHexCode p.etx = false := by
  simp [Params.ok, and_assoc]

/-! ## The gate, the acknowledgment and the frame -/

@[simp] theorem afterGate_block (s : State) : (afterGate s).block = s.block := rfl
@[simp] theorem afterGate_params (s : State) : (afterGate s).params = s.params := rfl
@[simp] theorem afterGate_rxq (s : State) : (afterGate s).rxq = s.rxq := rfl
@[simp] theorem afterGate_arrivals (s : State) : (afterGate s).arrivals = s.arrivals := rfl
@[simp] theorem afterGate_calls (s : State) : (afterGate s).calls = s.calls := rfl
@[simp] theorem afterGate_result (s : State) : (afterGate s).result = s.result := rfl

/-- The pseudocode of R80 does what `afterGate` says and answers the presence sample. -/
theorem gateActive_eq (s : State) : gateActive s = (presence s, afterGate s) := by
  unfold gateActive afterGate presence railLevel gateCalls pinRead pinMode pinWrite pinAnswer pinAdvance State.emit
  rcases hp : s.pinAnswers with _ | ⟨p, _ | ⟨r, rest⟩⟩
  · cases h0 : Config.freePin s.pinReads <;> simp [h0]
    by_cases h1 : Config.freePin (s.pinReads + 1) = s.params.railOn <;> simp [h1]
  · cases p <;> simp
    by_cases h1 : Config.freePin (s.pinReads + 1) = s.params.railOn <;> simp [h1]
  · cases p <;> simp
    by_cases h1 : r = s.params.railOn <;> simp [h1]

theorem sendAck_eq (s : State) :
    sendAck s = { afterGate s with trace := (afterGate s).trace ++ ifActive s [s.params.ack] } := by
  unfold sendAck ifActive
  rw [gateActive_eq]
  cases presence s
  · simp; rfl
  · simp [sendByte, txWrite, State.emit]

theorem sendChars_eq (cs : List Byte) (sum : Byte) (s : State) :
    sendChars cs sum s = (sum + cksum cs, { s with trace := s.trace ++ cs.map .tx }) := by
  induction cs generalizing sum s with
  | nil => simp [sendChars, cksum]
  | cons c cs ih => simp [sendChars, cksum, ih, sendByte, txWrite, State.emit, BitVec.add_assoc]

/-- The bytes `sendHexString` writes behind its gate are the frame of R93. -/
theorem sendFrame_eq (h : List Byte) (s : State) :
    sendFrame h s = { s with trace := s.trace ++ (frame s.params h).map .tx } := by
  simp [sendFrame, sendChars_eq, frame, sendByte, txWrite, State.emit]

theorem sendHexString_gated (h : List Byte) (s : State) :
    sendHexString h true s =
      { afterGate s with trace := (afterGate s).trace ++ ifActive s (frame s.params h) } := by
  unfold sendHexString ifActive
  rw [gateActive_eq]
  cases presence s
  · simp; rfl
  · simp [sendFrame_eq]

theorem sendHexString_ungated (h : List Byte) (s : State) :
    sendHexString h false s = { s with trace := s.trace ++ (frame s.params h).map .tx } := by
  simp [sendHexString, sendFrame_eq]

/-! ## The buffer -/

theorem memRead_of_lt {i : Nat} (h : i < 6) (s : State) (f : Byte → Out) : memRead i s f = f (s.block.buf[i]'h) := by
  simp [memRead, h]

theorem memWrite_of_lt {i : Nat} (h : i < 6) (v : Byte) (s : State) :
    memWrite i v s = .next (s.setBuf (s.block.buf.set i v h)) := by
  simp [memWrite, h]

theorem halfCursor_lt {c : Int} (h : c < 12) : halfCursor c < 6 := by
  unfold halfCursor
  omega

/-- The byte a nibble leaves in the buffer (20_memory.md R35). -/
def nibbleByte (c : Int) (old : Byte) (n : Nibble) : Byte := if oddCursor c then shiftIn old n else zext8 n

/-- NIBBLE in the decoding regime never faults: it writes one byte and advances (20_memory.md R37). -/
theorem nibble_eq (n : Nibble) (s : State) (h : s.block.cursor < 12) :
    nibble n s = .next (advance (s.setBuf (s.block.buf.set (halfCursor s.block.cursor)
      (nibbleByte s.block.cursor (s.block.buf[halfCursor s.block.cursor]'(halfCursor_lt h)) n) (halfCursor_lt h)))) := by
  unfold nibble nibbleByte
  cases hodd : oddCursor s.block.cursor <;>
    simp [memRead_of_lt (halfCursor_lt h), memWrite_of_lt (halfCursor_lt h), andThen]

/-! ## The receive machine -/

/-- Everything a received byte can do: the five actions of R122, each with the tests that select it. -/
theorem receiveByte_cases (b : Byte) (s : State) :
    (s.block.cursor < 0 ∧ receiveByte b s = .next (search b s)) ∨
    (0 ≤ s.block.cursor ∧ b = s.params.etx ∧ receiveByte b s = .next (endOfFrame s)) ∨
    (12 ≤ s.block.cursor ∧ b ≠ s.params.etx ∧ receiveByte b s = .next (overflowDrop s)) ∨
    (0 ≤ s.block.cursor ∧ s.block.cursor < 12 ∧ b ≠ s.params.etx ∧ hexval b = none ∧
      receiveByte b s = .next (invalidChar s)) ∨
    (∃ n, ∃ h : s.block.cursor < 12, 0 ≤ s.block.cursor ∧ b ≠ s.params.etx ∧ hexval b = some n ∧
      receiveByte b s = .next (advance (s.setBuf (s.block.buf.set (halfCursor s.block.cursor)
        (nibbleByte s.block.cursor (s.block.buf[halfCursor s.block.cursor]'(halfCursor_lt h)) n)
        (halfCursor_lt h))))) := by
  by_cases h0 : s.block.cursor < 0
  · exact .inl ⟨h0, by simp [receiveByte, h0]⟩
  by_cases h1 : b = s.params.etx
  · exact .inr (.inl ⟨by omega, h1, by simp [receiveByte, h0, h1]⟩)
  by_cases h2 : s.block.cursor ≥ 12
  · exact .inr (.inr (.inl ⟨h2, h1, by simp [receiveByte, h0, h1, h2, maxHex]⟩))
  · have h2' : s.block.cursor < 12 := by omega
    cases hv : hexval b with
    | none =>
      exact .inr (.inr (.inr (.inl ⟨by omega, h2', h1, rfl, by simp [receiveByte, h0, h1, h2, hv, maxHex]⟩)))
    | some n =>
      refine .inr (.inr (.inr (.inr ⟨n, h2', by omega, h1, rfl, ?_⟩)))
      rw [← nibble_eq n s h2']
      simp [receiveByte, h0, h1, h2, hv, maxHex]

/-- The end-of-frame event, effects in order (60_exceptions.md R150). -/
theorem endOfFrame_eq (s : State) :
    endOfFrame s =
      { afterGate s with
        block := { s.block with cursor := -1 }
        trace := (afterGate s).trace ++ ifActive s [s.params.ack] ++
          (if 1 < halfCursor s.block.cursor then
            [.dispatch { bytes := s.block.buf, length := halfCursor s.block.cursor - 1 }] else [])
        result := some (pollResult (frameStatus (decide (1 < halfCursor s.block.cursor)))) } := by
  unfold endOfFrame
  rw [sendAck_eq]
  by_cases h : 1 < halfCursor s.block.cursor <;>
    simp [h, dispatch, State.emit, State.setCursor, State.ret, idleCursor]

/-- No action touches what the poll's caller and the environment own; the queue is read by RxRead alone. -/
theorem receiveByte_frame {b : Byte} {s t : State} (h : receiveByte b s = .next t) :
    t.params = s.params ∧ t.rxq = s.rxq ∧ t.arrivals = s.arrivals ∧ t.calls = s.calls := by
  rcases receiveByte_cases b s with ⟨_, e⟩ | ⟨_, _, e⟩ | ⟨_, _, e⟩ | ⟨_, _, _, _, e⟩ | ⟨_, _, _, _, _, e⟩ <;>
    rw [e] at h <;> cases h
  · unfold search; split <;> simp
  · rw [endOfFrame_eq]; simp
  · simp [overflowDrop]
  · unfold invalidChar; split <;> simp
  · simp [advance]

/-- Every received byte completes its action, in every state. -/
theorem receiveByte_completes (b : Byte) (s : State) : ∃ t, receiveByte b s = .next t := by
  rcases receiveByte_cases b s with ⟨_, e⟩ | ⟨_, _, e⟩ | ⟨_, _, e⟩ | ⟨_, _, _, _, e⟩ | ⟨_, _, _, _, _, e⟩ <;>
    exact ⟨_, e⟩

/-! ## The drain loop -/

theorem unlessReturned_some {t : State} {r : Result} (h : t.result = some r) (f : State → Out) :
    unlessReturned t f = .next t := by
  simp [unlessReturned, h]

theorem unlessReturned_none {t : State} (h : t.result = none) (f : State → Out) : unlessReturned t f = f t := by
  simp [unlessReturned, h]

@[simp] theorem andThen_next (s : State) (f : State → Out) : andThen (.next s) f = f s := rfl

/-- One turn of the loop with a byte waiting (R112). -/
theorem drain_cons (n : Nat) (s : State) (b : Byte) (q : List Byte) (h : s.rxq = b :: q) :
    drain (n + 1) s = andThen (receiveByte b (s.setRxq q)) fun t => unlessReturned t (drain n) := by
  simp [drain, rxRead, h]

/-- Packages the induction over a poll: a relation between the state a poll starts from and the one it ends in holds of
every poll if it holds of a return and passes back over each byte read, the rest of the poll being trivial where the byte
ended it. -/
theorem drain_induction {Q : State → State → Prop} (hret : ∀ s, Q s (s.ret (pollResult .awaitingMore)))
    (hbyte : ∀ s b q t u, s.rxq = b :: q → receiveByte b (s.setRxq q) = .next t →
      (t.result = none → Q t u) → (t.result ≠ none → u = t) → Q s u)
    (n : Nat) (s u : State) (hn : s.rxq.length = n) (h : drain n s = .next u) : Q s u := by
  induction n generalizing s with
  | zero => cases h; exact hret s
  | succ n ih =>
    cases hq : s.rxq with
    | nil => simp [hq] at hn
    | cons b q =>
      obtain ⟨t, ht⟩ := receiveByte_completes b (s.setRxq q)
      rw [drain_cons n s b q hq, ht, andThen_next] at h
      have hlen : t.rxq.length = n := by
        rw [(receiveByte_frame ht).2.1]
        simpa [hq] using hn
      refine hbyte s b q t u hq ht (fun hr => ih t hlen ?_) (fun hr => ?_)
      · rwa [unlessReturned_none hr] at h
      · obtain ⟨r, hr'⟩ := Option.ne_none_iff_exists'.1 hr
        rw [unlessReturned_some hr'] at h
        cases h
        rfl

theorem drain_zero (s : State) : drain 0 s = .next (s.ret (pollResult .awaitingMore)) := rfl

theorem execPollReceive_nil {s : State} (h : s.rxq = []) :
    execPollReceive s = .next (s.ret (pollResult .idle)) := by
  simp [execPollReceive, rxAvail, h]

theorem execPollReceive_cons {s : State} {b : Byte} {q : List Byte} (h : s.rxq = b :: q) :
    execPollReceive s = drain (q.length + 1) s := by
  simp [execPollReceive, rxAvail, h]

/-- A poll is an idle poll or a drain of the whole queue. -/
theorem execPollReceive_cases {s t : State} (h : execPollReceive s = .next t) :
    (s.rxq = [] ∧ t = s.ret (pollResult .idle)) ∨ drain s.rxq.length s = .next t := by
  cases hq : s.rxq with
  | nil =>
    rw [execPollReceive_nil hq] at h
    cases h
    exact .inl ⟨rfl, rfl⟩
  | cons b q =>
    rw [execPollReceive_cons hq] at h
    exact .inr h

/-! ## Around an operation -/

theorem nextCall_nil {s : State} (h : s.calls = []) : nextCall s = none := by
  simp [nextCall, h]

theorem nextCall_of_decodeCall {s : State} {i : Instr} {rest : List Byte} (h : decodeCall s.calls = .ok (i, rest)) :
    nextCall s = some (.ok (i, { s with calls := rest })) := by
  unfold nextCall
  cases hc : s.calls with
  | nil => simp [hc, decodeCall] at h
  | cons c cs => simp [← hc, h]

end Sys2Proof.Machine
end

