-- ==== Sys2Proof/Laws/PerInstr.lean ====
section
/-! SUPPORT. Per-instruction family: an instruction's words are never empty, and the first of them tells a host
operation's select code (30_encoding.md R62). -/

namespace Sys2Proof.Laws.EncodeHead

/-- The operation-select code of a host operation (R62). -/
def selectCode : Instr → Option Nat
  | .isPeripheralActive => some 0
  | .sendByte _ => some 1
  | .sendAck => some 2
  | .sendHexString _ _ => some 3
  | .sendCommand _ => some 4
  | .setAlarmState _ => some 5
  | .pollReceive => some 6
  | .opSeven => some 7
  | .rxStx | .rxEtx | .rxOther _ => none
  | .rxHex0 | .rxHex1 | .rxHex2 | .rxHex3 | .rxHex4 | .rxHex5 | .rxHex6 | .rxHex7 => none
  | .rxHex8 | .rxHex9 | .rxHexA | .rxHexB | .rxHexC | .rxHexD | .rxHexE | .rxHexF => none

/-- A host operation's words begin with its select code; a received byte is one word. -/
def Statement (i : Instr) : Prop :=
  ∀ p : Params, ∃ b bs, encode p i = b :: bs ∧
    (i.source = .port → selectCode i = some b.toNat) ∧ (i.source = .line → bs = [])

theorem rxStx : Statement .rxStx := fun _ => ⟨_, _, rfl, by simp [Instr.source, selectCode], by simp [Instr.source]⟩
theorem rxEtx : Statement .rxEtx := fun _ => ⟨_, _, rfl, by simp [Instr.source, selectCode], by simp [Instr.source]⟩
theorem rxHex0 : Statement .rxHex0 := fun _ => ⟨_, _, rfl, by simp [Instr.source, selectCode], by simp [Instr.source]⟩
theorem rxHex1 : Statement .rxHex1 := fun _ => ⟨_, _, rfl, by simp [Instr.source, selectCode], by simp [Instr.source]⟩
theorem rxHex2 : Statement .rxHex2 := fun _ => ⟨_, _, rfl, by simp [Instr.source, selectCode], by simp [Instr.source]⟩
theorem rxHex3 : Statement .rxHex3 := fun _ => ⟨_, _, rfl, by simp [Instr.source, selectCode], by simp [Instr.source]⟩
theorem rxHex4 : Statement .rxHex4 := fun _ => ⟨_, _, rfl, by simp [Instr.source, selectCode], by simp [Instr.source]⟩
theorem rxHex5 : Statement .rxHex5 := fun _ => ⟨_, _, rfl, by simp [Instr.source, selectCode], by simp [Instr.source]⟩
theorem rxHex6 : Statement .rxHex6 := fun _ => ⟨_, _, rfl, by simp [Instr.source, selectCode], by simp [Instr.source]⟩
theorem rxHex7 : Statement .rxHex7 := fun _ => ⟨_, _, rfl, by simp [Instr.source, selectCode], by simp [Instr.source]⟩
theorem rxHex8 : Statement .rxHex8 := fun _ => ⟨_, _, rfl, by simp [Instr.source, selectCode], by simp [Instr.source]⟩
theorem rxHex9 : Statement .rxHex9 := fun _ => ⟨_, _, rfl, by simp [Instr.source, selectCode], by simp [Instr.source]⟩
theorem rxHexA : Statement .rxHexA := fun _ => ⟨_, _, rfl, by simp [Instr.source, selectCode], by simp [Instr.source]⟩
theorem rxHexB : Statement .rxHexB := fun _ => ⟨_, _, rfl, by simp [Instr.source, selectCode], by simp [Instr.source]⟩
theorem rxHexC : Statement .rxHexC := fun _ => ⟨_, _, rfl, by simp [Instr.source, selectCode], by simp [Instr.source]⟩
theorem rxHexD : Statement .rxHexD := fun _ => ⟨_, _, rfl, by simp [Instr.source, selectCode], by simp [Instr.source]⟩
theorem rxHexE : Statement .rxHexE := fun _ => ⟨_, _, rfl, by simp [Instr.source, selectCode], by simp [Instr.source]⟩
theorem rxHexF : Statement .rxHexF := fun _ => ⟨_, _, rfl, by simp [Instr.source, selectCode], by simp [Instr.source]⟩
theorem isPeripheralActive : Statement .isPeripheralActive := fun _ => ⟨_, _, rfl, by simp [Instr.source, selectCode], by simp [Instr.source]⟩
theorem sendAck : Statement .sendAck := fun _ => ⟨_, _, rfl, by simp [Instr.source, selectCode], by simp [Instr.source]⟩
theorem pollReceive : Statement .pollReceive := fun _ => ⟨_, _, rfl, by simp [Instr.source, selectCode], by simp [Instr.source]⟩
theorem opSeven : Statement .opSeven := fun _ => ⟨_, _, rfl, by simp [Instr.source, selectCode], by simp [Instr.source]⟩
theorem rxOther (b : Byte) : Statement (.rxOther b) :=
  fun _ => ⟨_, _, rfl, by simp [Instr.source, selectCode], by simp [Instr.source]⟩
theorem sendByte (b : Byte) : Statement (.sendByte b) :=
  fun _ => ⟨_, _, rfl, by simp [Instr.source, selectCode], by simp [Instr.source]⟩
theorem sendHexString (hexChars : List Byte) (gated : Bool) : Statement (.sendHexString hexChars gated) :=
  fun _ => ⟨_, _, rfl, by simp [Instr.source, selectCode], by simp [Instr.source]⟩
theorem sendCommand (v : Byte) : Statement (.sendCommand v) :=
  fun _ => ⟨_, _, rfl, by simp [Instr.source, selectCode], by simp [Instr.source]⟩
theorem setAlarmState (state : AlarmOperand) : Statement (.setAlarmState state) :=
  fun _ => ⟨_, _, rfl, by simp [Instr.source, selectCode], by simp [Instr.source]⟩

end Sys2Proof.Laws.EncodeHead
end

