-- ==== Sys2Proof/Tests/Slice0.lean ====
section
/-! SUPPORT. The model's own tests: the WellFormed smoke, every constructor's decoding from a word written out from the
spec, vectors of 95_test_vectors.md, and for each statement with hypotheses a witness that meets them. -/

namespace Sys2Proof.Tests

open Sys2Proof Sys2Proof.Machine

/-- Default markers; pins 4 and 7 are arbitrary distinct identifiers, and `CMD_ALARM = "030210"` is the assumption of vector V-TX-19, the other strings are arbitrary. -/
def params : Params where
  stx := 0x02
  etx := 0x03
  ack := 0x06
  cmdAlarm := #v[0x30, 0x33, 0x30, 0x32, 0x31, 0x30]
  cmdTestAlarm := #v[0x31, 0x31, 0x31, 0x31, 0x31, 0x31]
  cmdNoAlarm := #v[0x32, 0x32, 0x32, 0x32, 0x32, 0x32]
  pinPresence := 4
  pinRail := 7
  railOn := true
  policy := .preserve

/-- A small state: cursor, buffer, receive queue; the pins answer present, rail on. -/
def st (c : Int) (buf : Vector Byte 6) (q : List Byte) : State where
  block := { cursor := c, buf := buf }
  params := params
  rxq := q
  trace := []
  pinAnswers := [true, true]
  pinReads := 0
  arrivals := []
  calls := []
  result := none

def empty : Vector Byte 6 := #v[0xEE, 0xEE, 0xEE, 0xEE, 0xEE, 0xEE]

/-- The next state of an outcome. -/
def after : Out → Option State
  | .next s => some s
  | .fault _ => none
  | .refused _ => none

def absent (s : State) : State := { s with pinAnswers := [false] }

def resetting (s : State) : State := { s with params := { params with policy := .resetToIdle } }

/-! ## WellFormed smoke: an ill-formed term for each check -/

theorem test_wf_other_refuses_stx : (Instr.rxOther 0x02).wellFormed params = false := by decide
theorem test_wf_other_refuses_etx : (Instr.rxOther 0x03).wellFormed params = false := by decide
theorem test_wf_other_refuses_hex : (Instr.rxOther 0x46).wellFormed params = false := by decide
theorem test_wf_other_accepts_lower_case : (Instr.rxOther 0x66).wellFormed params = true := by decide
theorem test_wf_unknown_alarm_refuses_known : (Instr.setAlarmState (.unknown 0x02)).wellFormed params = false := by
  decide
theorem test_params_refuse_equal_markers : ({ params with etx := 0x02 } : Params).ok = false := by decide
theorem test_params_refuse_hex_marker : ({ params with stx := 0x41 } : Params).ok = false := by decide

/-! ## Decoding: R58's classes and R62's codes, every constructor -/

theorem test_decode_markers : decodeRx params 0x02 = .rxStx ∧ decodeRx params 0x03 = .rxEtx := by decide
theorem test_decode_digits :
    [0x30, 0x31, 0x32, 0x33, 0x34, 0x35, 0x36, 0x37, 0x38, 0x39].map (decodeRx params) =
      [.rxHex0, .rxHex1, .rxHex2, .rxHex3, .rxHex4, .rxHex5, .rxHex6, .rxHex7, .rxHex8, .rxHex9] := by decide
theorem test_decode_letters :
    [0x41, 0x42, 0x43, 0x44, 0x45, 0x46].map (decodeRx params) =
      [.rxHexA, .rxHexB, .rxHexC, .rxHexD, .rxHexE, .rxHexF] := by decide
/-- V-HEX-3: every byte of the vector but the markers is of class OTHER. -/
theorem test_decode_other :
    [0x2F, 0x3A, 0x40, 0x47, 0x61, 0x66, 0x00, 0x06, 0x20, 0xFF].map (decodeRx params) =
      [.rxOther 0x2F, .rxOther 0x3A, .rxOther 0x40, .rxOther 0x47, .rxOther 0x61, .rxOther 0x66, .rxOther 0x00,
       .rxOther 0x06, .rxOther 0x20, .rxOther 0xFF] := by decide
theorem test_decode_calls_without_operand :
    decodeCall [0b000] = .ok (.isPeripheralActive, []) ∧ decodeCall [0b010] = .ok (.sendAck, []) ∧
      decodeCall [0b110] = .ok (.pollReceive, []) ∧ decodeCall [0b111] = .ok (.opSeven, []) := by decide
theorem test_decode_calls_with_byte :
    decodeCall [0b001, 0x41] = .ok (.sendByte 0x41, []) ∧ decodeCall [0b100, 0xFF] = .ok (.sendCommand 0xFF, []) ∧
      decodeCall [0b101, 0x01, 0x06] = .ok (.setAlarmState (.known .testAlarm), [0x06]) ∧
      decodeCall [0b101, 0x07] = .ok (.setAlarmState (.unknown 0x07), []) := by decide
theorem test_decode_hex_string :
    decodeCall [0b011, 0x00, 0x01, 0x30, 0x01, 0x32, 0x00, 0x06] = .ok (.sendHexString [0x30, 0x32] true, [0x06]) ∧
      decodeCall [0b011, 0x01, 0x00] = .ok (.sendHexString [] false, []) := by decide
theorem test_decode_rejects :
    decodeCall [0x08] = .error (.notASelectCode 0x08) ∧ decodeCall [0b001] = .error .truncated ∧
      decodeCall [0b011, 0x02] = .error (.badGatedByte 0x02) ∧
      decodeCall [0b011, 0x00, 0x05, 0x30] = .error (.badCharTag 0x05) := by decide
theorem test_table_words :
    decodeTableWord 8 0x02 = some .rxStx ∧ decodeTableWord 8 0x45 = some .rxHexE ∧
      decodeTableWord 8 0x06 = some .pollReceive ∧ decodeTableWord 3 0x02 = some .sendAck ∧
      decodeTableWord 16 0x4101 = some (.sendByte 0x41) := by decide

/-! ## Hex coding and checksum (V-HEX, V-CK) -/

theorem test_hexchar_table :
    (List.range 16).map (fun n => hexchar (BitVec.ofNat 4 n)) =
      [0x30, 0x31, 0x32, 0x33, 0x34, 0x35, 0x36, 0x37, 0x38, 0x39, 0x41, 0x42, 0x43, 0x44, 0x45, 0x46] := by decide
theorem test_hexPair_A7 : hexPair 0xA7 = [0x41, 0x37] := by decide
theorem test_cksum_wraps_twice : cksum (List.replicate 10 0x46) = 0xBC := by decide
theorem test_cksum_lower_case : cksum [0x61, 0x62] = 0xC3 := by decide

/-! ## The gate and the encoder (V-GATE, V-TX) -/

/-- V-GATE-1 -/
theorem test_gate_absent :
    (after (exec .isPeripheralActive (absent (st (-1) empty [])))).map (fun t => (t.result, t.pinlog)) =
      some (some (.bool false),
        [.setMode 4 .inputPullDown, .read 4 false, .setMode 4 .input]) := by decide
/-- V-GATE-3 -/
theorem test_gate_switches_rail_on :
    (after (exec .isPeripheralActive { st (-1) empty [] with pinAnswers := [true, false] })).map
        (fun t => (t.result, t.pinlog)) =
      some (some (.bool true),
        [.setMode 4 .inputPullDown, .read 4 true, .setMode 4 .input,
         .read 7 false, .write 7 true]) := by decide
/-- V-TX-1 -/
theorem test_sendByte : (after (exec (.sendByte 0x41) (st 5 empty []))).map (·.txlog) = some [0x41] := by decide
/-- V-TX-2, V-TX-10 -/
theorem test_sendAck :
    (after (exec .sendAck (st 5 empty []))).map (·.txlog) = some [0x06] ∧
      (after (exec .sendAck (absent (st 5 empty [])))).map (·.txlog) = some [] := by decide
/-- V-TX-4 -/
theorem test_sendHexString :
    (after (exec (.sendHexString [0x30, 0x32, 0x36, 0x32] true) (st 5 empty []))).map (·.txlog) =
      some [0x02, 0x30, 0x32, 0x36, 0x32, 0x43, 0x41, 0x03] := by decide
/-- V-TX-12: not gated, with the peripheral absent; no pin call. -/
theorem test_sendHexString_ungated :
    (after (exec (.sendHexString [0x30, 0x32, 0x36, 0x32] false) (absent (st 5 empty [])))).map
        (fun t => (t.txlog, t.pinlog)) =
      some ([0x02, 0x30, 0x32, 0x36, 0x32, 0x43, 0x41, 0x03], []) := by decide
/-- V-TX-16 -/
theorem test_sendCommand :
    (after (exec (.sendCommand 0xA0) (st 5 empty []))).map (·.txlog) =
      some [0x02, 0x41, 0x30, 0x37, 0x31, 0x03] := by decide
/-- V-TX-19 -/
theorem test_setAlarmState :
    (after (exec (.setAlarmState (.known .alarm)) (st 5 empty []))).map (fun t => (t.txlog, t.result)) =
      some ([0x02, 0x30, 0x33, 0x30, 0x32, 0x31, 0x30, 0x32, 0x36, 0x03], some (.bool true)) := by decide
/-- V-TX-20 -/
theorem test_setAlarmState_unknown :
    (after (exec (.setAlarmState (.unknown 0x07)) (st 5 empty []))).map (fun t => (t.trace, t.result)) =
      some ([], some (.bool true)) := by decide

/-! ## The receive machine (worked examples of R113 to R119, V-RX) -/

theorem test_rxStx_idle_starts_without_clearing :
    (after (exec .rxStx (st (-1) empty []))).map (·.block) = some { cursor := 0, buf := empty } := by decide
/-- R114's worked example -/
theorem test_rxEtx_dispatches :
    (after (exec .rxEtx (st 8 #v[0x03, 0x02, 0x10, 0x26, 0xEE, 0xEE] []))).map
        (fun t => (t.txlog, t.displog, t.block.cursor, t.result)) =
      some ([0x06], [{ bytes := #v[0x03, 0x02, 0x10, 0x26, 0xEE, 0xEE], length := 3 }], -1,
        some (.poll true .frameComplete)) := by decide
/-- R118's worked example -/
theorem test_rxHexA_even :
    (after (exec .rxHexA (st 4 empty []))).map (·.block) =
      some { cursor := 5, buf := #v[0xEE, 0xEE, 0x0A, 0xEE, 0xEE, 0xEE] } := by decide
/-- R119's worked example -/
theorem test_rxHex7_odd :
    (after (exec .rxHex7 (st 5 #v[0xEE, 0xEE, 0x0A, 0xEE, 0xEE, 0xEE] []))).map (·.block) =
      some { cursor := 6, buf := #v[0xEE, 0xEE, 0xA7, 0xEE, 0xEE, 0xEE] } := by decide
/-- R117's worked example, both policies -/
theorem test_rxOther_policies :
    (after (exec (.rxOther 0x47) (st 2 empty []))).map (·.block.cursor) = some 2 ∧
      (after (exec (.rxOther 0x47) (resetting (st 2 empty [])))).map (·.block.cursor) = some (-1) := by decide
/-- S1a: the frame the encoder builds for "030210" -/
theorem test_poll_S1a :
    (after (exec .pollReceive (st (-1) empty [0x02, 0x30, 0x33, 0x30, 0x32, 0x31, 0x30, 0x32, 0x36, 0x03]))).map
        (fun t => (t.txlog, t.displog, t.rxq, t.result)) =
      some ([0x06], [{ bytes := #v[0x03, 0x02, 0x10, 0x26, 0xEE, 0xEE], length := 3 }], [],
        some (.poll true .frameComplete)) := by decide
/-- S3, first poll: the thirteenth character ends it, and two bytes stay queued. -/
theorem test_poll_S3 :
    (after (exec .pollReceive (st (-1) empty [0x02, 0x30, 0x31, 0x32, 0x33, 0x34, 0x35, 0x36, 0x37, 0x38, 0x39, 0x41,
        0x42, 0x43, 0x44, 0x03]))).map (fun t => (t.block, t.rxq, t.result)) =
      some ({ cursor := 12, buf := #v[0x01, 0x23, 0x45, 0x67, 0x89, 0xAB] }, [0x44, 0x03],
        some (.poll true .awaitingMore)) := by decide
/-- A step with a call pending and bytes arriving: V-RX-3, the bytes arriving with the poll. -/
theorem test_step_poll :
    (after (step { st (-1) empty [] with calls := [0x06], arrivals := [[0x02, 0x03]] })).map
        (fun t => (t.txlog, t.displog, t.calls, t.result)) =
      some ([0x06], [], [], some (.poll true .frameDropped)) := by decide
theorem test_step_runs_placed_words :
    after (step ((st (-1) empty []).withFetchWord 8 0x02)) =
        some { st 0 empty [] with result := some (.poll true .awaitingMore) } ∧
      after (step ((st (-1) empty []).withFetchWord 8 0x01)) =
        some { st (-1) empty [] with trace := [.tx 0x00], result := some .unit } := by decide

/-! ## Witnesses: a concrete state and operands for the hypotheses of each statement -/

theorem witness_StepKeepsRunInvariant :
    ∃ s t : State, Inv s ∧ step s = .next t :=
  ⟨{ st 5 #v[0x12, 0x34, 0x0A, 0, 0, 0] [0x37] with calls := [0x06] }, _, by decide, rfl⟩
theorem witness_EveryInstructionKeepsRunInvariant :
    ∃ s t : State, Inv s ∧ exec .rxEtx s = .next t :=
  ⟨st 12 empty [], _, by decide, rfl⟩
theorem witness_StepRunsDecodedCall :
    ∃ s : State, s.params.ok = true ∧ decodeCall s.calls = .ok (.sendByte 0x41, [0x02]) :=
  ⟨{ st (-1) empty [] with calls := [0x01, 0x41, 0x02] }, by decide, by decide⟩
theorem witness_StepWithoutCallOnlyLetsBytesArrive :
    ∃ s : State, s.params.ok = true ∧ s.calls = [] ∧ s.arrivals ≠ [] :=
  ⟨{ st (-1) empty [] with arrivals := [[0x02]] }, by decide, by decide, by decide⟩
theorem witness_StepRefusesExactlyInadmissibleMarkers :
    ∃ s : State, s.params.stx = s.params.etx ∧ step s = .refused .inadmissibleParameters :=
  ⟨{ st (-1) empty [] with params := { params with etx := 0x02 } }, by decide, rfl⟩
theorem witness_StepRefusesHexMarker :
    ∃ s : State, hexchar 15 = s.params.etx ∧ step s = .refused .inadmissibleParameters :=
  ⟨{ st (-1) empty [] with params := { params with etx := 0x46 } }, by decide, rfl⟩
theorem witness_CodeSevenIsRefused :
    ∃ s : State, s.params.ok = true ∧ s.calls = [0x07] ∧ step s = .refused .noOperation :=
  ⟨{ st (-1) empty [] with calls := [0x07] }, by decide, by decide, rfl⟩
theorem witness_ParametersNeverChange :
    ∃ s t u : State, exec .pollReceive s = .next t ∧ step s = .next u :=
  ⟨st (-1) empty [0x02], _, _, rfl, rfl⟩
theorem witness_EveryInstructionButCodeSevenCompletes : Instr.rxOther 0x02 ≠ .opSeven := by decide
theorem witness_BufferIsNeverAccessedOutOfBounds :
    ∃ s t : State, exec .rxHex1 s = .next t ∧ t.block.buf ≠ s.block.buf ∧ s.block.cursor = 11 :=
  ⟨st 11 empty [], _, rfl, by decide, rfl⟩
theorem witness_BufferReadsBackWhatWasWritten :
    ∃ t, memWrite 5 0x12 (st 0 empty []) = .next t ∧ t.block.buf[5] = 0x12 ∧ t.block.buf[0] = 0xEE :=
  ⟨_, rfl, by decide, by decide⟩
theorem witness_BufferFaultsAboveFive : memWrite 6 0x12 (st 0 empty []) = .fault (.bufferIndex 6) := rfl
theorem witness_DecodeInvertsEncode :
    params.ok = true ∧ (Instr.rxOther 0xFF).wellFormed params = true ∧
      (Instr.setAlarmState (.unknown 0x03)).wellFormed params = true := by decide
theorem witness_EncodeInvertsDecode :
    decode params .port [0x03, 0x01, 0x01, 0x30, 0x00, 0x06] = .ok (.sendHexString [0x30] false, [0x06]) ∧
      decode params .line [0x46, 0x02] = .ok (.rxHexF, [0x02]) := by decide
theorem witness_EachByteValueHasOneClass : params.ok = true := by decide
theorem witness_HexvalInvertsHexchar :
    (9 : Nibble).toNat ≤ 9 ∧ 10 ≤ (10 : Nibble).toNat ∧ hexval 0x46 = some 15 := by decide
theorem witness_ByteTravelsAsTwoCharacters : hexval 0x41 = some 10 ∧ hexval 0x37 = some 7 := by decide
theorem witness_FrameIsInjectiveOfLengthPlusFour : frame params [0x30] = frame params [0x30] := rfl
/-- Each branch of the rail's clause: absent, present with the rail on, present with the rail off. -/
theorem witness_GateLeavesPinsAsItsContractSays :
    params.pinPresence ≠ params.pinRail ∧
      (after (exec .isPeripheralActive (absent (st 0 empty [])))).map (·.pinDriven 7) = some none ∧
      (after (exec .isPeripheralActive (st 0 empty []))).map (·.pinDriven 7) = some none ∧
      (after (exec .isPeripheralActive { st 0 empty [] with pinAnswers := [true, false] })).map
        (fun t => (t.pinDriven 7, t.pinMode 4, t.pinMode 7)) = some (some true, some .input, none) := by decide
theorem witness_AlarmStatesSendTheirCommandFrames :
    AlarmState.noAlarm = .noAlarm ∧ (st 0 empty []).params.cmdNoAlarm = params.cmdNoAlarm := by decide
/-- V-RX-17 and the gated operations: hypotheses met by a poll with a whole frame waiting and by sendCommand. -/
theorem witness_InactiveGateMeansNoByteWritten :
    presence (absent (st 4 empty [0x03])) = false ∧ Instr.pollReceive ≠ .opSeven ∧
      (after (exec .pollReceive (absent (st 4 empty [0x03])))).map (fun t => (t.txlog, t.displog)) =
        some ([], [{ bytes := empty, length := 1 }]) ∧
      (after (exec (.sendCommand 0x02) (absent (st 4 empty [])))).map (·.txlog) = some [] := by decide
theorem witness_EncoderIsStatelessAndLeavesReceiverAlone :
    ∃ s t : State, (Instr.sendCommand 0x5A).source = .port ∧ exec (.sendCommand 0x5A) s = .next t :=
  ⟨st 5 empty [0x03], _, rfl, rfl⟩
theorem witness_IdleRegimeSearchesForStartMarker :
    ∃ s : State, s.params.ok = true ∧ (Instr.rxOther 0x00).wellFormed s.params = true ∧ s.block.cursor = -1 :=
  ⟨st (-1) empty [], by decide, by decide, rfl⟩
theorem witness_EndMarkerAcknowledgesDispatchesAndGoesIdle :
    (after (exec .rxEtx (st 3 empty []))).map (·.displog) = some [] ∧
      (after (exec .rxEtx (st 4 empty []))).map (·.displog) = some [{ bytes := empty, length := 1 }] ∧
      (after (exec .rxEtx (st 12 empty []))).map (·.displog) = some [{ bytes := empty, length := 5 }] := by decide
theorem witness_OverflowRegimeDropsTheByte :
    ∃ s : State, s.params.ok = true ∧ Instr.rxStx.wellFormed s.params = true ∧ s.block.cursor = 12 :=
  ⟨st 12 empty [], by decide, by decide, rfl⟩
theorem witness_OverflowDrainsOneBytePerPoll :
    ∃ s : State, s.block.cursor = 12 ∧ s.rxq = [0x47, 0x03] ∧ (0x47 : Byte) ≠ s.params.etx :=
  ⟨st 12 empty [0x47, 0x03], rfl, rfl, by decide⟩
theorem witness_InvalidByteEndsThePoll_first :
    ∃ s : State, s.params.ok = true ∧ s.block.cursor = 0 ∧ s.params.policy = .preserve :=
  ⟨st 0 empty [], by decide, rfl, rfl⟩
theorem witness_InvalidByteEndsThePoll_last :
    ∃ s : State, s.params.ok = true ∧ (Instr.rxOther 0x06).wellFormed s.params = true ∧ s.block.cursor = 11 ∧
      s.params.policy = .resetToIdle :=
  ⟨resetting (st 11 empty []), by decide, by decide, rfl, rfl⟩
theorem witness_EvenCursorStartsAByte :
    ∃ s : State, s.params.ok = true ∧ s.block.cursor = 2 * ((5 : Fin 6).val : Int) :=
  ⟨st 10 empty [], by decide, by decide⟩
theorem witness_OddCursorCompletesTheByte :
    ∃ s : State, s.params.ok = true ∧ s.block.cursor = 2 * ((0 : Fin 6).val : Int) + 1 :=
  ⟨st 1 empty [], by decide, by decide⟩
theorem witness_CompletedByteIsItsTwoNibbles :
    ∃ s : State, Inv s ∧ s.block.cursor = 2 * ((5 : Fin 6).val : Int) + 1 :=
  ⟨st 11 #v[0, 0, 0, 0, 0, 0x0F] [], by decide, by decide⟩
theorem witness_OnlyEndMarkerOrPolicyLeavesAFrame :
    ∃ s t : State, s.params.ok = true ∧ exec .rxStx s = .next t ∧ s.block.cursor = 11 ∧ t.block.cursor < 0 :=
  ⟨resetting (st 11 empty []), _, by decide, rfl, rfl, by decide⟩
theorem witness_IdlePollChangesNothing : (st 5 empty []).rxq = [] := rfl
theorem witness_PollRunsTheClassOfEachByte :
    ∃ s : State, s.params.ok = true ∧ s.rxq = 0x02 :: [0x30] :=
  ⟨st (-1) empty [0x02, 0x30], by decide, rfl⟩
theorem witness_PollConsumesAPrefixOfTheQueue :
    ∃ s t : State, exec .pollReceive s = .next t ∧ s.rxq = [0x47] ++ t.rxq ∧ t.rxq = [0x03] :=
  ⟨st 2 empty [0x47, 0x03], _, rfl, by decide, by decide⟩
theorem witness_SplitArrivalDecodesTheSame :
    ∃ s t : State, exec .pollReceive { s with rxq := [0x02, 0x30, 0x32] ++ [0x36, 0x32, 0x03] } = .next t ∧
      t.rxq.length < 3 :=
  ⟨st (-1) empty [], _, rfl, by decide⟩
theorem witness_OnePollEndsAtMostOneFrame :
    ∃ s t : State, s.block.cursor ≤ 12 ∧ exec .pollReceive s = .next t ∧ t.displog ≠ [] :=
  ⟨st 12 empty [0x03, 0x02], _, by decide, rfl, by decide⟩
theorem witness_LostEndMarkerKeepsMachineInFrame :
    ∃ s t : State, s.params.policy = .preserve ∧ 0 ≤ s.block.cursor ∧ s.params.etx ∉ s.rxq ∧
      exec .pollReceive s = .next t :=
  ⟨st 0 empty [0x30, 0x02, 0x41], _, rfl, by decide, by decide, rfl⟩
theorem witness_GateDoesNotAffectReception :
    ∃ s t : State, exec .pollReceive s = .next t ∧ t.displog ≠ [] :=
  ⟨st 4 empty [0x03], _, rfl, by decide⟩
theorem witness_StaleBytesNeverEnterAMessage :
    ∃ (s t : State) (b : Vector Byte 6), b ≠ s.block.buf ∧ (∀ i : Fin 6, 2 * (i.val : Int) < s.block.cursor →
      s.block.buf[i] = b[i]) ∧ exec .pollReceive s = .next t ∧ t.displog ≠ [] :=
  ⟨st 5 empty [0x31, 0x03], _, #v[0xEE, 0xEE, 0xEE, 0, 0, 0], by decide, by decide, rfl, by decide⟩
theorem witness_PollDecodesAnyFrameUpToTwelveCharacters :
    ∃ s : State, s.params.ok = true ∧ s.block.cursor < 0 ∧ ([1, 2, 3, 4, 5] : List Nibble).length ≤ 12 ∧
      s.rxq = s.params.stx :: (([1, 2, 3, 4, 5] : List Nibble).map hexchar ++ s.params.etx :: [0x02]) :=
  ⟨st (-1) empty [0x02, 0x31, 0x32, 0x33, 0x34, 0x35, 0x03, 0x02], by decide, by decide, by decide, by decide⟩
/-- V-RX-8: twelve characters, the most a frame of this statement has. -/
theorem witness_PollDecodesTwelveCharacters :
    ∃ s : State, s.params.ok = true ∧ s.block.cursor < 0 ∧
      s.rxq = s.params.stx :: (([0, 1, 2, 3, 4, 5, 6, 7, 8, 9, 10, 11] : List Nibble).map hexchar ++ s.params.etx :: []) ∧
      (after (exec .pollReceive s)).map (·.displog) =
        some [{ bytes := #v[0x01, 0x23, 0x45, 0x67, 0x89, 0xAB], length := 5 }] :=
  ⟨st (-1) empty [0x02, 0x30, 0x31, 0x32, 0x33, 0x34, 0x35, 0x36, 0x37, 0x38, 0x39, 0x41, 0x42, 0x03],
    by decide, by decide, by decide, by decide⟩
/-- V-RT-1: one payload byte, the least. -/
theorem witness_EncoderFrameRoundTripsOneByte :
    ∃ s : State, s.params.ok = true ∧ s.block.cursor < 0 ∧ s.rxq = frame s.params (hexOf [0xA7]) ++ [] :=
  ⟨st (-1) empty [0x02, 0x41, 0x37, 0x37, 0x38, 0x03], by decide, by decide, by decide⟩
theorem witness_EncoderFrameRoundTrips :
    ∃ s : State, s.params.ok = true ∧ s.block.cursor < 0 ∧
      s.rxq = frame s.params (hexOf [0x01, 0x02, 0x03, 0x04, 0x05]) ++ [] :=
  ⟨st (-1) empty [0x02, 0x30, 0x31, 0x30, 0x32, 0x30, 0x33, 0x30, 0x34, 0x30, 0x35, 0x45, 0x46, 0x03],
    by decide, by decide, by decide⟩
theorem witness_SixBytePayloadIsDeliveredWithLengthFive :
    ∃ s : State, s.params.ok = true ∧ s.block.cursor < 0 ∧
      s.rxq = frame s.params (hexOf [0x01, 0x02, 0x03, 0x04, 0x05, 0x06]) :=
  ⟨st (-1) empty [0x02, 0x30, 0x31, 0x30, 0x32, 0x30, 0x33, 0x30, 0x34, 0x30, 0x35, 0x30, 0x36, 0x35, 0x35, 0x03],
    by decide, by decide, by decide⟩
theorem witness_EmptyPayloadIsAcknowledgedNotDispatched :
    ∃ s : State, s.params.ok = true ∧ s.block.cursor < 0 ∧ s.rxq = frame s.params [] ++ [] :=
  ⟨st (-1) empty [0x02, 0x30, 0x30, 0x03], by decide, by decide, by decide⟩
theorem witness_WrongChecksumIsNotCaught :
    ∃ s : State, s.params.ok = true ∧ s.block.cursor < 0 ∧ (0xFF : Byte) ≠ cksum (hexOf [0x02, 0x62]) ∧
      s.rxq = s.params.stx :: (hexOf [0x02, 0x62] ++ hexPair 0xFF ++ [s.params.etx]) :=
  ⟨st (-1) empty [0x02, 0x30, 0x32, 0x36, 0x32, 0x46, 0x46, 0x03], by decide, by decide, by decide, by decide⟩

end Sys2Proof.Tests
end

/-! SUPPORT. The buffer is never accessed out of bounds (20_memory.md R37, R30): every instruction but code 7 completes,
and of the five actions of a received byte only NIBBLE writes the buffer. -/

namespace Sys2Proof.Machine

/-! ## A received byte as an instruction -/

/-- Every RXBYTE row runs the action its one byte selects (30_encoding.md R58, 42_receive_state_machine.md R122). -/
theorem exec_eq_receiveByte_of_line {i : Instr} (h : i.source = .line) (s : State) :
    ∃ b, encode s.params i = [b] ∧ exec i s = receiveByte b s := by
  cases i with
  | isPeripheralActive | sendByte | sendAck | sendHexString | sendCommand | setAlarmState | pollReceive | opSeven =>
    cases h
  | _ => exact ⟨_, rfl, rfl⟩

/-! ## Which actions leave the buffer alone -/

@[simp] theorem search_buf (b : Byte) (s : State) : (search b s).block.buf = s.block.buf := by
  unfold search
  split <;> simp

@[simp] theorem endOfFrame_buf (s : State) : (endOfFrame s).block.buf = s.block.buf := by
  rw [endOfFrame_eq]

@[simp] theorem overflowDrop_buf (s : State) : (overflowDrop s).block.buf = s.block.buf := rfl

@[simp] theorem invalidChar_buf (s : State) : (invalidChar s).block.buf = s.block.buf := by
  unfold invalidChar
  split <;> simp

/-- A received byte changes the buffer only by NIBBLE, which the decoding regime alone selects (R37, R122). -/
theorem cursor_decoding_of_receiveByte_buf_ne {b : Byte} {s t : State} (h : receiveByte b s = .next t)
    (hbuf : t.block.buf ≠ s.block.buf) : 0 ≤ s.block.cursor ∧ s.block.cursor < 12 := by
  rcases receiveByte_cases b s with ⟨_, e⟩ | ⟨_, _, e⟩ | ⟨_, _, e⟩ | ⟨_, _, _, _, e⟩ | ⟨_, hlt, hnonneg, _⟩
  case inr.inr.inr.inr => exact ⟨hnonneg, hlt⟩
  all_goals
    rw [e] at h
    cases h
    simp at hbuf

/-! ## Completion -/

theorem drain_completes (n : Nat) (s : State) : ∃ t, drain n s = .next t := by
  induction n generalizing s with
  | zero => exact ⟨_, drain_zero s⟩
  | succ n ih =>
    cases hq : s.rxq with
    | nil => exact ⟨s.ret (pollResult .awaitingMore), by simp [drain, rxRead, hq]⟩
    | cons b q =>
      obtain ⟨t, ht⟩ := receiveByte_completes b (s.setRxq q)
      rw [drain_cons n s b q hq, ht, andThen_next]
      cases hr : t.result with
      | none => simpa only [unlessReturned_none hr] using ih t
      | some r => exact ⟨t, unlessReturned_some hr _⟩

theorem execPollReceive_completes (s : State) : ∃ t, execPollReceive s = .next t := by
  cases hq : s.rxq with
  | nil => exact ⟨_, execPollReceive_nil hq⟩
  | cons b q => simpa only [execPollReceive_cons hq] using drain_completes (q.length + 1) s

/-- Every instruction but code 7 completes, in every state (60_exceptions.md R140). -/
theorem exec_completes {i : Instr} (hi : i ≠ .opSeven) (s : State) : ∃ t, exec i s = .next t := by
  cases hsrc : i.source with
  | line =>
    obtain ⟨b, -, he⟩ := exec_eq_receiveByte_of_line hsrc s
    simpa only [he] using receiveByte_completes b s
  | port =>
    cases i with
    | isPeripheralActive | sendByte | sendAck | sendHexString | sendCommand => exact ⟨_, rfl⟩
    | setAlarmState a => cases a <;> exact ⟨_, rfl⟩
    | pollReceive => exact execPollReceive_completes s
    | opSeven => exact absurd rfl hi
    | _ => cases hsrc

/-- The model's fault, a buffer index above 5, is never reached (20_memory.md R30, U13). -/
theorem exec_ne_fault (i : Instr) (s : State) (f : Fault) : exec i s ≠ .fault f := by
  by_cases hi : i = .opSeven
  · subst hi
    change execOpSeven s ≠ .fault f
    simp [execOpSeven]
  · obtain ⟨t, ht⟩ := exec_completes hi s
    simp [ht]

/-- Settles O11: no instruction faults because every one completes or is code 7, and of the five actions of a received
byte only NIBBLE writes the buffer. -/
theorem bufferIsNeverAccessedOutOfBounds : Obligations.BufferIsNeverAccessedOutOfBounds := by
  refine ⟨exec_ne_fault, fun i s t hline hexec hbuf => ?_⟩
  obtain ⟨b, -, he⟩ := exec_eq_receiveByte_of_line hline s
  obtain ⟨hnonneg, hlt⟩ := cursor_decoding_of_receiveByte_buf_ne (he ▸ hexec) hbuf
  exact ⟨hnonneg, by omega⟩

end Sys2Proof.Machine

/-! SUPPORT. A byte as two characters (30_encoding.md R54) and the checksum behind a payload (R55). -/

namespace Sys2Proof.Machine

/-! ## The checksum -/

/-- The 8-bit sum of R55 as a natural number: the carries out of bit 7 are lost. -/
theorem cksum_toNat (S : List Byte) : (cksum S).toNat = (S.map BitVec.toNat).sum % 256 := by
  induction S with
  | nil => rfl
  | cons c cs ih => simp [cksum, ih]

/-- In a frame the two checksum digits stand between the payload and the end marker (30_encoding.md R50, R56). -/
theorem frame_eq (p : Params) (h : List Byte) :
    frame p h = p.stx :: (h ++ [hexchar (highNibble (cksum h)), hexchar (lowNibble (cksum h)), p.etx]) := by
  simp [frame]

/-- Settles O19: the sum modulo 256 by induction on the sequence, its two examples by evaluation. -/
theorem checksumIsSumModulo256 : Obligations.ChecksumIsSumModulo256 :=
  ⟨cksum_toNat, by decide, by decide, frame_eq⟩

/-! ## Nibbles of a byte -/

theorem highNibble_eq_extractLsb (v : Byte) : highNibble v = v.extractLsb 7 4 := rfl

theorem lowNibble_eq_extractLsb (v : Byte) : lowNibble v = v.extractLsb 3 0 := rfl

@[simp] theorem zext8_toNat (n : Nibble) : (zext8 n).toNat = n.toNat :=
  BitVec.toNat_setWidth_of_le (by decide)

/-- Shifting a nibble in keeps the old byte's low nibble, as the high one; the shift leaves the nibble's place empty, so
that OR is addition there (20_memory.md R35). -/
theorem shiftIn_toNat (b : Byte) (n : Nibble) : (shiftIn b n).toNat = 16 * (b.toNat % 16) + n.toNat := by
  have shifted : (b <<< 4).toNat = 2 ^ 4 * (b.toNat % 16) := by
    rw [BitVec.toNat_shiftLeft, Nat.shiftLeft_eq]
    omega
  rw [shiftIn, BitVec.toNat_or, shifted, zext8_toNat, ← Nat.two_pow_add_eq_or_of_lt n.isLt]

/-- Settles O18: the two nibbles are the byte's bit fields, and shifting the second value in behind the first loses
nothing, because the first is below 16. -/
theorem byteTravelsAsTwoCharacters : Obligations.ByteTravelsAsTwoCharacters := by
  refine ⟨fun v => ?_, fun c0 c1 n0 n1 _ _ => ?_⟩
  · rw [hexPair, highNibble_eq_extractLsb, lowNibble_eq_extractLsb]
  · rw [shiftIn_toNat, zext8_toNat, Nat.mod_eq_of_lt n0.isLt]

end Sys2Proof.Machine

/-! SUPPORT. The encoder operations (41_frame_encoder.md R90 to R97): each appends one list of events to the
trace, and neither the receiver nor the history has a part in what the list is. -/

namespace Sys2Proof.Machine

/-! ## What each operation leaves -/

/-- After a gated operation with the bytes `bs` to write and the result `r`: the gate's pin calls, then the bytes if it
was active. -/
def gatedSend (bs : List Byte) (r : Result) (s : State) : State :=
  { afterGate s with trace := (afterGate s).trace ++ ifActive s bs, result := some r }

theorem exec_isPeripheralActive (s : State) :
    exec .isPeripheralActive s = .next ((afterGate s).ret (.bool (presence s))) := by
  change execIsPeripheralActive s = _
  rw [execIsPeripheralActive, gateActive_eq]

theorem exec_sendByte (b : Byte) (s : State) :
    exec (.sendByte b) s = .next { s with trace := s.trace ++ [.tx b], result := some .unit } := rfl

theorem exec_sendAck (s : State) : exec .sendAck s = .next (gatedSend [s.params.ack] .unit s) := by
  change execSendAck s = _
  rw [execSendAck, sendAck_eq]
  rfl

theorem exec_sendHexString_gated (h : List Byte) (s : State) :
    exec (.sendHexString h true) s = .next (gatedSend (frame s.params h) .unit s) := by
  change execSendHexString h true s = _
  rw [execSendHexString, sendHexString_gated]
  rfl

theorem exec_sendHexString_ungated (h : List Byte) (s : State) :
    exec (.sendHexString h false) s =
      .next { s with trace := s.trace ++ (frame s.params h).map .tx, result := some .unit } := by
  change execSendHexString h false s = _
  rw [execSendHexString, sendHexString_ungated]
  rfl

theorem exec_sendCommand (v : Byte) (s : State) :
    exec (.sendCommand v) s = .next (gatedSend (frame s.params (hexPair v)) .unit s) :=
  exec_sendHexString_gated (hexPair v) s

theorem exec_setAlarmState_known (a : AlarmState) (s : State) :
    exec (.setAlarmState (.known a)) s =
      .next (gatedSend (frame s.params (commandString s.params a)) alarmResult s) := by
  change execSetAlarmState (.known a) s = _
  rw [execSetAlarmState, sendHexString_gated]
  rfl

theorem exec_setAlarmState_unknown (v : Byte) (s : State) :
    exec (.setAlarmState (.unknown v)) s = .next (s.ret alarmResult) := rfl

/-! ## Independence of the receiver and of the history (R97) -/

/-- In the parameters and pin answers of `s`, and whatever the block, the receive queue and the earlier trace are, `i`
appends one and the same list of events, none of them a dispatch, and beyond that only uses pin answers and returns. -/
def ActsOnLineAndPinsOnly (i : Instr) (s : State) : Prop :=
  ∃ (added : List Event) (answers : List Bool) (reads : Nat) (r : Result), added.filterMap Event.message = [] ∧
    ∀ (b : Block) (q : List Byte) (tr : List Event), exec i { s with block := b, rxq := q, trace := tr } =
      .next { s with
        block := b
        rxq := q
        trace := tr ++ added
        pinAnswers := answers
        pinReads := reads
        result := some r }

theorem filterMap_message_ifActive (s : State) (bs : List Byte) : (ifActive s bs).filterMap Event.message = [] := by
  unfold ifActive
  split
  · exact filterMap_message_txs bs
  · rfl

/-- The gate reads parameters and pin answers only, so a gated operation whose bytes the parameters decide is
independent. -/
theorem actsOnLineAndPinsOnly_of_gatedSend {i : Instr} {bs : Params → List Byte} {r : Result}
    (h : ∀ s, exec i s = .next (gatedSend (bs s.params) r s)) (s : State) : ActsOnLineAndPinsOnly i s := by
  refine ⟨(gateCalls s.params (presence s) (railLevel s)).map .pin ++ ifActive s (bs s.params),
    (afterGate s).pinAnswers, (afterGate s).pinReads, r, ?_, fun b q tr => ?_⟩
  · rw [List.filterMap_append, filterMap_message_pins, filterMap_message_ifActive, List.append_nil]
  · rw [h, ← List.append_assoc]
    rfl

theorem isPeripheralActive_actsOnLineAndPinsOnly (s : State) : ActsOnLineAndPinsOnly .isPeripheralActive s :=
  ⟨(gateCalls s.params (presence s) (railLevel s)).map .pin, (afterGate s).pinAnswers, (afterGate s).pinReads,
    .bool (presence s), filterMap_message_pins _, fun _ _ _ => exec_isPeripheralActive _⟩

theorem sendByte_actsOnLineAndPinsOnly (b : Byte) (s : State) : ActsOnLineAndPinsOnly (.sendByte b) s :=
  ⟨[.tx b], s.pinAnswers, s.pinReads, .unit, rfl, fun _ _ _ => exec_sendByte b _⟩

theorem sendHexString_actsOnLineAndPinsOnly (h : List Byte) (gated : Bool) (s : State) :
    ActsOnLineAndPinsOnly (.sendHexString h gated) s := by
  cases gated with
  | true => exact actsOnLineAndPinsOnly_of_gatedSend (bs := fun p => frame p h) (exec_sendHexString_gated h) s
  | false =>
    exact ⟨(frame s.params h).map .tx, s.pinAnswers, s.pinReads, .unit, filterMap_message_txs _,
      fun _ _ _ => exec_sendHexString_ungated h _⟩

theorem setAlarmState_actsOnLineAndPinsOnly (a : AlarmOperand) (s : State) :
    ActsOnLineAndPinsOnly (.setAlarmState a) s := by
  cases a with
  | known a =>
    exact actsOnLineAndPinsOnly_of_gatedSend (bs := fun p => frame p (commandString p a))
      (exec_setAlarmState_known a) s
  | unknown v =>
    refine ⟨[], s.pinAnswers, s.pinReads, alarmResult, rfl, fun b q tr => ?_⟩
    rw [exec_setAlarmState_unknown, List.append_nil]
    rfl

/-- Every host operation but pollReceive that completes acts on the transmit line and the pins only. -/
theorem exec_actsOnLineAndPinsOnly {i : Instr} {s t : State} (hport : i.source = .port) (hpoll : i ≠ .pollReceive)
    (hexec : exec i s = .next t) : ActsOnLineAndPinsOnly i s := by
  cases i with
  | isPeripheralActive => exact isPeripheralActive_actsOnLineAndPinsOnly s
  | sendByte b => exact sendByte_actsOnLineAndPinsOnly b s
  | sendAck => exact actsOnLineAndPinsOnly_of_gatedSend (bs := fun p => [p.ack]) exec_sendAck s
  | sendHexString h gated => exact sendHexString_actsOnLineAndPinsOnly h gated s
  | sendCommand v =>
    exact actsOnLineAndPinsOnly_of_gatedSend (bs := fun p => frame p (hexPair v)) (exec_sendCommand v) s
  | setAlarmState a => exact setAlarmState_actsOnLineAndPinsOnly a s
  | pollReceive => exact absurd rfl hpoll
  | opSeven => cases hexec
  | _ => cases hport

/-- Settles O30: the operation's events are one list whatever the block, the queue and the trace are; with those of `s`
itself put in, the next state is `s` with the list appended, and the list holds no dispatch. -/
theorem encoderIsStatelessAndLeavesReceiverAlone : Obligations.EncoderIsStatelessAndLeavesReceiverAlone := by
  intro i s t hport hpoll hexec
  obtain ⟨added, answers, reads, r, hmessage, hany⟩ := exec_actsOnLineAndPinsOnly hport hpoll hexec
  cases hexec.symm.trans (hany s.block s.rxq s.trace)
  refine ⟨rfl, rfl, rfl, rfl, rfl, ?_, added, rfl, hany⟩
  rw [displog_append (s := s) rfl, hmessage, List.append_nil]

/-- Settles O22: R90 is the one write. -/
theorem sendByteAppendsOneByteUngated : Obligations.SendByteAppendsOneByteUngated := exec_sendByte

/-- Settles O23: the gate's effect, then the one byte behind it. -/
theorem sendAckWritesAckIfActive : Obligations.SendAckWritesAckIfActive := exec_sendAck

end Sys2Proof.Machine

/-! SUPPORT. The receive state machine (42_receive_state_machine.md R111 to R120): which action a byte selects in each
regime, and the next state each action leaves. -/

namespace Sys2Proof.Machine

/-! ## The action each regime selects (R122) -/

theorem receiveByte_of_idle {s : State} (h : s.block.cursor < 0) (b : Byte) :
    receiveByte b s = .next (search b s) := by
  simp [receiveByte, h]

theorem receiveByte_etx {s : State} (h : 0 ≤ s.block.cursor) :
    receiveByte s.params.etx s = .next (endOfFrame s) := by
  simp [receiveByte, not_lt.2 h]

theorem receiveByte_of_overflow {b : Byte} {s : State} (h : 12 ≤ s.block.cursor) (hb : b ≠ s.params.etx) :
    receiveByte b s = .next (overflowDrop s) := by
  have hnonneg : ¬ s.block.cursor < 0 := by omega
  simp [receiveByte, hnonneg, hb, maxHex, h]

theorem receiveByte_of_hexval {b : Byte} {n : Nibble} {s : State} (h0 : 0 ≤ s.block.cursor)
    (h12 : s.block.cursor < 12) (hb : b ≠ s.params.etx) (hn : hexval b = some n) :
    receiveByte b s = nibble n s := by
  simp [receiveByte, not_lt.2 h0, hb, maxHex, not_le.2 h12, hn]

/-! ## SEARCH in one equation (R113) -/

theorem search_eq (b : Byte) (s : State) :
    search b s = { s with
      block := { s.block with cursor := if b = s.params.stx then 0 else s.block.cursor }
      result := none } := by
  unfold search
  split <;> rfl

/-! ## The markers among the received bytes (30_encoding.md R58, R59) -/

theorem ne_of_isHexCode {b m : Byte} (hb : isHexCode b = true) (hm : isHexCode m = false) : b ≠ m := by
  rintro rfl
  simp [hb] at hm

/-- With admissible markers only the rows RX.STX and RX.ETX stand for the marker bytes. -/
theorem encode_line_eq_marker_iff {p : Params} {i : Instr} {b : Byte} (hok : p.ok = true)
    (hwf : i.wellFormed p = true) (hline : i.source = .line) (henc : encode p i = [b]) :
    (b = p.stx ↔ i = .rxStx) ∧ (b = p.etx ↔ i = .rxEtx) := by
  obtain ⟨hne, hstx, hetx⟩ := (params_ok_iff p).1 hok
  cases i with
  | isPeripheralActive | sendByte | sendAck | sendHexString | sendCommand | setAlarmState | pollReceive | opSeven =>
    cases hline
  | rxStx => cases henc; simp [hne]
  | rxEtx => cases henc; simp [hne.symm]
  | rxOther c =>
    cases henc
    obtain ⟨⟨hcs, hce⟩, -⟩ : (b ≠ p.stx ∧ b ≠ p.etx) ∧ isHexCode b = false := by
      simpa [Instr.wellFormed, isOtherByte] using hwf
    simp [hcs, hce]
  | _ =>
    cases henc
    exact ⟨iff_of_false (ne_of_isHexCode rfl hstx) nofun, iff_of_false (ne_of_isHexCode rfl hetx) nofun⟩

/-- Settles O31: the byte is searched for the start marker, and only RX.STX's byte is that marker. -/
theorem idleRegimeSearchesForStartMarker : Obligations.IdleRegimeSearchesForStartMarker := by
  intro i s hok hwf hline hidle
  obtain ⟨b, henc, hexec⟩ := exec_eq_receiveByte_of_line hline s
  obtain ⟨hstx, -⟩ := encode_line_eq_marker_iff hok hwf hline henc
  rw [hexec, receiveByte_of_idle hidle, search_eq]
  simp only [hstx]

/-- Settles O33: only RX.ETX's byte is the end marker, and every other byte is dropped. -/
theorem overflowRegimeDropsTheByte : Obligations.OverflowRegimeDropsTheByte := by
  intro i s hok hwf hline hi hover
  obtain ⟨b, henc, hexec⟩ := exec_eq_receiveByte_of_line hline s
  obtain ⟨-, hetx⟩ := encode_line_eq_marker_iff hok hwf hline henc
  exact ⟨.awaitingMore, hexec.trans (receiveByte_of_overflow hover (mt hetx.1 hi))⟩

/-! ## The end of a frame (R114, R115) -/

/-- Two bytes are decoded from cursor 4 on. -/
theorem one_lt_halfCursor_iff (c : Int) : 1 < halfCursor c ↔ 4 ≤ c := by
  unfold halfCursor
  omega

/-- Settles O32: the end-of-frame event, its test for two decoded bytes read as a test of the cursor. -/
theorem endMarkerAcknowledgesDispatchesAndGoesIdle : Obligations.EndMarkerAcknowledgesDispatchesAndGoesIdle := by
  intro s h
  refine ⟨frameStatus (decide (1 < halfCursor s.block.cursor)), ?_⟩
  change receiveByte s.params.etx s = _
  rw [receiveByte_etx h, endOfFrame_eq]
  simp only [one_lt_halfCursor_iff]
  rfl

/-! ## A hex digit in the decoding regime (R118 to R120) -/

theorem hexval_hexchar : ∀ n : Nibble, hexval (hexchar n) = some n := by decide

/-- The row RX.HEX_n receives the code of the digit `n`. -/
theorem exec_hexInstr (n : Nibble) (s : State) : exec (hexInstr n) s = receiveByte (hexchar n) s := by
  obtain ⟨⟨k, hk⟩⟩ := n
  interval_cases k <;> rfl

theorem isHexCode_hexchar : ∀ n : Nibble, isHexCode (hexchar n) = true := by decide

theorem hexchar_ne_etx {p : Params} (hok : p.ok = true) (n : Nibble) : hexchar n ≠ p.etx := by
  obtain ⟨-, -, hetx⟩ := (params_ok_iff p).1 hok
  exact ne_of_isHexCode (isHexCode_hexchar n) hetx

/-- A hex digit writes the byte its cursor points into, and the cursor advances. -/
theorem exec_hexInstr_eq {s : State} (hok : s.params.ok = true) (h0 : 0 ≤ s.block.cursor) {i : Fin 6}
    (hi : halfCursor s.block.cursor = i.val) (n : Nibble) :
    exec (hexInstr n) s = .next { s with
      block := { cursor := s.block.cursor + 1
                 buf := s.block.buf.set i.val (nibbleByte s.block.cursor s.block.buf[i] n) i.isLt }
      result := none } := by
  have h12 : s.block.cursor < 12 := by
    unfold halfCursor at hi
    omega
  rw [exec_hexInstr, receiveByte_of_hexval h0 h12 (hexchar_ne_etx hok n) (hexval_hexchar n), nibble_eq n s h12]
  simp only [hi]
  rfl

theorem halfCursor_even (i : Nat) : halfCursor (2 * (i : Int)) = i := by
  unfold halfCursor
  omega

theorem halfCursor_odd (i : Nat) : halfCursor (2 * (i : Int) + 1) = i := by
  unfold halfCursor
  omega

theorem nibbleByte_even (i : Nat) (old : Byte) (n : Nibble) : nibbleByte (2 * (i : Int)) old n = zext8 n := by
  simp [nibbleByte, oddCursor]

theorem nibbleByte_odd (i : Nat) (old : Byte) (n : Nibble) : nibbleByte (2 * (i : Int) + 1) old n = shiftIn old n := by
  have hodd : (2 * (i : Int) + 1) % 2 = 1 := by omega
  simp [nibbleByte, oddCursor, hodd]

/-- Settles O36: at cursor `2 i` the byte written is the nibble alone. -/
theorem evenCursorStartsAByte : Obligations.EvenCursorStartsAByte := by
  intro n s i hok hc
  have hbyte : nibbleByte s.block.cursor s.block.buf[i] n = zext8 n := hc ▸ nibbleByte_even i.val _ n
  rw [exec_hexInstr_eq hok (by omega) (hc ▸ halfCursor_even i.val), hbyte]
  rfl

/-- Settles O37: at cursor `2 i + 1` the byte written is the old one with the nibble shifted in. -/
theorem oddCursorCompletesTheByte : Obligations.OddCursorCompletesTheByte := by
  intro n s i hok hc
  have hbyte : nibbleByte s.block.cursor s.block.buf[i] n = shiftIn s.block.buf[i] n := hc ▸ nibbleByte_odd i.val _ n
  rw [exec_hexInstr_eq hok (by omega) (hc ▸ halfCursor_odd i.val), hbyte]
  rfl

/-! ## The idle poll (R111) -/

/-- Settles O40: an empty queue ends the poll before anything is read. -/
theorem idlePollChangesNothing : Obligations.IdlePollChangesNothing :=
  fun _ hempty => ⟨.idle, execPollReceive_nil hempty⟩

end Sys2Proof.Machine

/-! SUPPORT. Received bytes and their classes (30_encoding.md R52, R53, R58, R59): the decoder and the encoder of format
RXBYTE are inverse to each other. -/

namespace Sys2Proof.Machine

/-! ## The sixteen codes (R52, R53) -/

theorem hexchar_toNat_of_le {n : Nibble} (h : n.toNat ≤ 9) : (hexchar n).toNat = 0x30 + n.toNat := by
  rw [hexchar, if_pos h, BitVec.toNat_ofNat]
  omega

theorem hexchar_toNat_of_ge {n : Nibble} (h : 10 ≤ n.toNat) : (hexchar n).toNat = 0x41 + (n.toNat - 10) := by
  have hn : n.toNat < 16 := n.isLt
  rw [hexchar, if_neg (by omega), BitVec.toNat_ofNat]
  omega

theorem hexchar_of_hexval {b : Byte} {n : Nibble} (h : hexval b = some n) : hexchar n = b := by
  apply BitVec.eq_of_toNat_eq
  unfold hexval at h
  split_ifs at h with hdigit hletter <;> cases h
  · rw [hexchar_toNat_of_le] <;> simp <;> omega
  · rw [hexchar_toNat_of_ge] <;> simp <;> omega

theorem hexval_eq_some_iff {b : Byte} {n : Nibble} : hexval b = some n ↔ hexchar n = b :=
  ⟨hexchar_of_hexval, fun h => h ▸ hexval_hexchar n⟩

theorem isHexCode_iff_exists_hexchar {b : Byte} : isHexCode b = true ↔ ∃ n, hexchar n = b := by
  rw [← Bool.not_eq_false, ← hexval_eq_none_iff, ← ne_eq, Option.ne_none_iff_exists']
  simp only [hexval_eq_some_iff]

/-- Settles O17: the closed forms, and each function undoing the other. -/
theorem hexvalInvertsHexchar : Obligations.HexvalInvertsHexchar :=
  ⟨fun _ => hexchar_toNat_of_le, fun _ => hexchar_toNat_of_ge, hexval_hexchar, fun _ _ => hexchar_of_hexval⟩

/-! ## The rows of format RXBYTE -/

@[simp] theorem encode_hexInstr (p : Params) (n : Nibble) : encode p (hexInstr n) = [hexchar n] := by
  obtain ⟨⟨k, hk⟩⟩ := n
  interval_cases k <;> rfl

@[simp] theorem hexInstr_source (n : Nibble) : (hexInstr n).source = .line := by
  obtain ⟨⟨k, hk⟩⟩ := n
  interval_cases k <;> rfl

@[simp] theorem hexInstr_wellFormed (p : Params) (n : Nibble) : (hexInstr n).wellFormed p = true := by
  obtain ⟨⟨k, hk⟩⟩ := n
  interval_cases k <;> rfl

theorem hexInstr_ne (n : Nibble) : hexInstr n ≠ .rxStx ∧ hexInstr n ≠ .rxEtx ∧ ∀ b, hexInstr n ≠ .rxOther b := by
  obtain ⟨⟨k, hk⟩⟩ := n
  interval_cases k <;> exact ⟨nofun, nofun, nofun⟩

theorem hexInstr_inj {m n : Nibble} : hexInstr m = hexInstr n ↔ m = n := by
  refine ⟨fun h => ?_, congrArg hexInstr⟩
  have hcode : [hexchar m] = [hexchar n] := by
    rw [← encode_hexInstr Params.default, ← encode_hexInstr Params.default, h]
  rw [← Option.some_inj, ← hexval_hexchar m, ← hexval_hexchar n, List.singleton_injective hcode]

/-- The four classes of R58 among the instructions. -/
theorem line_cases {i : Instr} (h : i.source = .line) :
    i = .rxStx ∨ i = .rxEtx ∨ (∃ n, i = hexInstr n) ∨ ∃ b, i = .rxOther b := by
  cases i with
  | isPeripheralActive | sendByte | sendAck | sendHexString | sendCommand | setAlarmState | pollReceive | opSeven =>
    cases h
  | rxStx => exact .inl rfl
  | rxEtx => exact .inr (.inl rfl)
  | rxOther b => exact .inr (.inr (.inr ⟨b, rfl⟩))
  | rxHex0 => exact .inr (.inr (.inl ⟨0, rfl⟩))
  | rxHex1 => exact .inr (.inr (.inl ⟨1, rfl⟩))
  | rxHex2 => exact .inr (.inr (.inl ⟨2, rfl⟩))
  | rxHex3 => exact .inr (.inr (.inl ⟨3, rfl⟩))
  | rxHex4 => exact .inr (.inr (.inl ⟨4, rfl⟩))
  | rxHex5 => exact .inr (.inr (.inl ⟨5, rfl⟩))
  | rxHex6 => exact .inr (.inr (.inl ⟨6, rfl⟩))
  | rxHex7 => exact .inr (.inr (.inl ⟨7, rfl⟩))
  | rxHex8 => exact .inr (.inr (.inl ⟨8, rfl⟩))
  | rxHex9 => exact .inr (.inr (.inl ⟨9, rfl⟩))
  | rxHexA => exact .inr (.inr (.inl ⟨10, rfl⟩))
  | rxHexB => exact .inr (.inr (.inl ⟨11, rfl⟩))
  | rxHexC => exact .inr (.inr (.inl ⟨12, rfl⟩))
  | rxHexD => exact .inr (.inr (.inl ⟨13, rfl⟩))
  | rxHexE => exact .inr (.inr (.inl ⟨14, rfl⟩))
  | rxHexF => exact .inr (.inr (.inl ⟨15, rfl⟩))

theorem isOtherByte_iff (p : Params) (b : Byte) :
    isOtherByte p b = true ↔ b ≠ p.stx ∧ b ≠ p.etx ∧ hexval b = none := by
  simp [isOtherByte, hexval_eq_none_iff, and_assoc]

/-! ## The class of a byte -/

/-- Everything the class decoder can answer, with the tests that select it. -/
theorem decodeRx_cases (p : Params) (b : Byte) :
    (b = p.stx ∧ decodeRx p b = .rxStx) ∨ (b = p.etx ∧ decodeRx p b = .rxEtx) ∨
      (∃ n, hexval b = some n ∧ decodeRx p b = hexInstr n) ∨
      (b ≠ p.stx ∧ b ≠ p.etx ∧ hexval b = none) ∧ decodeRx p b = .rxOther b := by
  unfold decodeRx
  split_ifs with hstx hetx
  · exact .inl ⟨hstx, rfl⟩
  · exact .inr (.inl ⟨hetx, rfl⟩)
  · cases hv : hexval b with
    | some n => exact .inr (.inr (.inl ⟨n, rfl, rfl⟩))
    | none => exact .inr (.inr (.inr ⟨⟨hstx, hetx, rfl⟩, rfl⟩))

/-- Every byte is read as a well-formed row of the table, whose word it is. -/
theorem decodeRx_sound (p : Params) (b : Byte) :
    (decodeRx p b).wellFormed p = true ∧ (decodeRx p b).source = .line ∧ encode p (decodeRx p b) = [b] := by
  rcases decodeRx_cases p b with ⟨rfl, e⟩ | ⟨rfl, e⟩ | ⟨n, hn, e⟩ | ⟨hother, e⟩ <;> rw [e]
  · exact ⟨rfl, rfl, rfl⟩
  · exact ⟨rfl, rfl, rfl⟩
  · exact ⟨hexInstr_wellFormed p n, hexInstr_source n, by rw [encode_hexInstr, hexchar_of_hexval hn]⟩
  · exact ⟨(isOtherByte_iff p b).2 hother, rfl, rfl⟩

theorem decodeRx_etx {p : Params} (hok : p.ok = true) : decodeRx p p.etx = .rxEtx := by
  obtain ⟨hne, -, -⟩ := (params_ok_iff p).1 hok
  simp [decodeRx, hne.symm]

theorem hexchar_ne_stx {p : Params} (hok : p.ok = true) (n : Nibble) : hexchar n ≠ p.stx := by
  obtain ⟨-, hstx, -⟩ := (params_ok_iff p).1 hok
  exact ne_of_isHexCode (isHexCode_hexchar n) hstx

theorem decodeRx_hexchar {p : Params} (hok : p.ok = true) (n : Nibble) : decodeRx p (hexchar n) = hexInstr n := by
  simp [decodeRx, hexchar_ne_stx hok, hexchar_ne_etx hok, hexval_hexchar]

theorem decodeRx_other {p : Params} {b : Byte} (h : isOtherByte p b = true) : decodeRx p b = .rxOther b := by
  obtain ⟨hstx, hetx, hv⟩ := (isOtherByte_iff p b).1 h
  simp [decodeRx, hstx, hetx, hv]

/-- A well-formed received byte is one word, which decodes to it. -/
theorem decodeRx_encode_of_line {p : Params} {i : Instr} (hok : p.ok = true) (hwf : i.wellFormed p = true)
    (hline : i.source = .line) : ∃ b, encode p i = [b] ∧ decodeRx p b = i := by
  rcases line_cases hline with rfl | rfl | ⟨n, rfl⟩ | ⟨c, rfl⟩
  · exact ⟨p.stx, rfl, if_pos rfl⟩
  · exact ⟨p.etx, rfl, decodeRx_etx hok⟩
  · exact ⟨hexchar n, encode_hexInstr p n, decodeRx_hexchar hok n⟩
  · exact ⟨c, rfl, decodeRx_other hwf⟩

/-- Settles O16: each class excludes the values of the others, because the markers differ and are no hex codes. -/
theorem eachByteValueHasOneClass : Obligations.EachByteValueHasOneClass := by
  intro p b hok
  have hstx (n : Nibble) := (hexchar_ne_stx hok n).symm
  have hetx (n : Nibble) := (hexchar_ne_etx hok n).symm
  obtain ⟨hne, -, -⟩ := (params_ok_iff p).1 hok
  rcases decodeRx_cases p b with ⟨rfl, e⟩ | ⟨rfl, e⟩ | ⟨m, hm, e⟩ | ⟨⟨hbs, hbe, hv⟩, e⟩ <;> rw [e]
  · simp [hne, (hexInstr_ne _).1.symm, hexval_eq_some_iff, (hstx _).symm]
  · simp [hne.symm, (hexInstr_ne _).2.1.symm, hexval_eq_some_iff, (hetx _).symm]
  · obtain rfl := hexchar_of_hexval hm
    simp [hexInstr_ne m, hexchar_ne_stx hok, hexchar_ne_etx hok, hexInstr_inj, hexval_hexchar]
  · simp [hbs, hbe, hv, ((hexInstr_ne _).2.2 b).symm]

end Sys2Proof.Machine

/-! SUPPORT. The command port (30_encoding.md R62, log entry 10): the decoder and the encoder of host operations are
inverse to each other, and with the received bytes so are those of both formats. -/

namespace Sys2Proof.Machine

/-! ## Operands -/

theorem decodeChars_encodeChars (cs rest : List Byte) : decodeChars (encodeChars cs ++ rest) = .ok (cs, rest) := by
  induction cs with
  | nil => cases rest <;> simp [encodeChars, decodeChars]
  | cons c cs ih => simp [encodeChars, decodeChars, ih]

theorem encodeChars_of_decodeChars {bs cs rest : List Byte} (h : decodeChars bs = .ok (cs, rest)) :
    encodeChars cs ++ rest = bs := by
  induction bs using decodeChars.induct generalizing cs with
  | case1 => simp [decodeChars] at h
  | case2 t h0 =>
    obtain rfl : t = 0x00 := BitVec.eq_of_toNat_eq h0
    cases h
    rfl
  | case3 t _ h1 => simp [decodeChars, h1] at h
  | case4 t h0 h1 => simp [decodeChars, h0, h1] at h
  | case5 t c bs h0 =>
    obtain rfl : t = 0x00 := BitVec.eq_of_toNat_eq h0
    cases h
    rfl
  | case6 t c bs _ h1 cs' rest' hbs ih =>
    obtain rfl : t = 0x01 := BitVec.eq_of_toNat_eq h1
    simp only [decodeChars, hbs] at h
    cases h
    rw [encodeChars, List.cons_append, List.cons_append, ih hbs]
  | case7 t c bs _ h1 e hbs => simp [decodeChars, h1, hbs] at h
  | case8 t c bs h0 h1 => simp [decodeChars, h0, h1] at h

theorem decodeHexString_eq_ok {bs rest : List Byte} {i : Instr} (h : decodeHexString bs = .ok (i, rest)) :
    ∃ cs gated, i = .sendHexString cs gated ∧ (if gated then 0x00 else 0x01) :: (encodeChars cs ++ rest) = bs := by
  unfold decodeHexString at h
  split at h
  · cases h
  next g bs =>
    split_ifs at h with hg
    split at h
    next cs rest' hcs =>
      cases h
      refine ⟨cs, _, rfl, ?_⟩
      rw [encodeChars_of_decodeChars hcs]
      obtain h0 | h1 : g.toNat = 0 ∨ g.toNat = 1 := by omega
      · obtain rfl : g = 0x00 := BitVec.eq_of_toNat_eq h0
        rfl
      · obtain rfl : g = 0x01 := BitVec.eq_of_toNat_eq h1
        rfl
    · cases h

theorem decodeOperand_eq_ok {f : Byte → Instr} {bs rest : List Byte} {i : Instr}
    (h : decodeOperand f bs = .ok (i, rest)) : ∃ b, i = f b ∧ bs = b :: rest := by
  cases bs with
  | nil => cases h
  | cons b bs =>
    cases h
    exact ⟨b, rfl, rfl⟩

theorem alarmOfByte_of_lt {v : Byte} (h : 2 < v.toNat) : alarmOfByte v = .unknown v := by
  unfold alarmOfByte
  split
  case h_4 => rfl
  all_goals omega

theorem alarmOfByte_byteOfAlarm {p : Params} {a : AlarmOperand} (h : (Instr.setAlarmState a).wellFormed p = true) :
    alarmOfByte (byteOfAlarm a) = a := by
  cases a with
  | known a => cases a <;> rfl
  | unknown v => exact alarmOfByte_of_lt (of_decide_eq_true h)

/-- Every byte stands for one alarm operand, an unknown value only where it is none of the three states'. -/
theorem alarmOfByte_sound (p : Params) (v : Byte) :
    (Instr.setAlarmState (alarmOfByte v)).wellFormed p = true ∧ byteOfAlarm (alarmOfByte v) = v := by
  by_cases h : 2 < v.toNat
  · rw [alarmOfByte_of_lt h]
    exact ⟨decide_eq_true h, rfl⟩
  · obtain h0 | h1 | h2 : v.toNat = 0 ∨ v.toNat = 1 ∨ v.toNat = 2 := by omega
    · obtain rfl : v = 0x00 := BitVec.eq_of_toNat_eq h0
      exact ⟨rfl, rfl⟩
    · obtain rfl : v = 0x01 := BitVec.eq_of_toNat_eq h1
      exact ⟨rfl, rfl⟩
    · obtain rfl : v = 0x02 := BitVec.eq_of_toNat_eq h2
      exact ⟨rfl, rfl⟩

/-! ## Calls -/

theorem decodeCall_encode {p : Params} {i : Instr} (hwf : i.wellFormed p = true) (hport : i.source = .port)
    (rest : List Byte) : decodeCall (encode p i ++ rest) = .ok (i, rest) := by
  cases i with
  | isPeripheralActive | sendByte | sendAck | sendCommand | pollReceive | opSeven => rfl
  | sendHexString cs gated =>
    cases gated <;> simp [encode, decodeCall, decodeHexString, decodeChars_encodeChars]
  | setAlarmState a => simp [encode, decodeCall, decodeOperand, alarmOfByte_byteOfAlarm hwf]
  | _ => cases hport

/-- A call that decodes is a well-formed host operation, and its words are those read. -/
theorem decodeCall_sound (p : Params) {bs rest : List Byte} {i : Instr} (h : decodeCall bs = .ok (i, rest)) :
    i.wellFormed p = true ∧ i.source = .port ∧ encode p i ++ rest = bs := by
  unfold decodeCall at h
  split at h
  · cases h
  next op bs =>
    split at h
    next hop =>
      obtain rfl : op = 0x00 := BitVec.eq_of_toNat_eq hop
      cases h
      exact ⟨rfl, rfl, rfl⟩
    next hop =>
      obtain rfl : op = 0x01 := BitVec.eq_of_toNat_eq hop
      obtain ⟨b, rfl, rfl⟩ := decodeOperand_eq_ok h
      exact ⟨rfl, rfl, rfl⟩
    next hop =>
      obtain rfl : op = 0x02 := BitVec.eq_of_toNat_eq hop
      cases h
      exact ⟨rfl, rfl, rfl⟩
    next hop =>
      obtain rfl : op = 0x03 := BitVec.eq_of_toNat_eq hop
      obtain ⟨cs, gated, rfl, rfl⟩ := decodeHexString_eq_ok h
      exact ⟨rfl, rfl, rfl⟩
    next hop =>
      obtain rfl : op = 0x04 := BitVec.eq_of_toNat_eq hop
      obtain ⟨b, rfl, rfl⟩ := decodeOperand_eq_ok h
      exact ⟨rfl, rfl, rfl⟩
    next hop =>
      obtain rfl : op = 0x05 := BitVec.eq_of_toNat_eq hop
      obtain ⟨b, rfl, rfl⟩ := decodeOperand_eq_ok h
      obtain ⟨hwf, hbyte⟩ := alarmOfByte_sound p b
      exact ⟨hwf, rfl, by rw [encode, hbyte]; rfl⟩
    next hop =>
      obtain rfl : op = 0x06 := BitVec.eq_of_toNat_eq hop
      cases h
      exact ⟨rfl, rfl, rfl⟩
    next hop =>
      obtain rfl : op = 0x07 := BitVec.eq_of_toNat_eq hop
      cases h
      exact ⟨rfl, rfl, rfl⟩
    · cases h

/-- Settles O13: a received byte by its class, a host operation by its select code, a string of characters by induction
on the string. -/
theorem decodeInvertsEncode : Obligations.DecodeInvertsEncode := by
  intro p i rest hok hwf
  cases hsrc : i.source with
  | port => exact decodeCall_encode hwf hsrc rest
  | line =>
    obtain ⟨b, henc, hdec⟩ := decodeRx_encode_of_line hok hwf hsrc
    rw [henc, List.singleton_append, decode, hdec]

/-- Settles O14: both decoders answer only well-formed instructions of their own format whose words are those read. -/
theorem encodeInvertsDecode : Obligations.EncodeInvertsDecode := by
  intro p src bs rest i h
  cases src with
  | port => exact decodeCall_sound p h
  | line =>
    cases bs with
    | nil => cases h
    | cons b bs =>
      cases h
      obtain ⟨hwf, hline, henc⟩ := decodeRx_sound p b
      exact ⟨hwf, hline, by rw [henc, List.singleton_append]⟩

/-- Settles O15: the words are evaluated. -/
theorem sampleWordsDecode : Obligations.SampleWordsDecode := by
  unfold Obligations.SampleWordsDecode
  decide

end Sys2Proof.Machine

/-! SUPPORT. The gate and the encoder operations as next states written out (40_activity_gate.md R80, 41_frame_encoder.md
R92 to R95), from the equations of each operation. -/

namespace Sys2Proof.Machine

/-! ## The frame (R93) -/

/-- Settles O20: the markers and the checksum add four bytes, and between frames of one length the payload characters
stand at the same places. -/
theorem frameIsInjectiveOfLengthPlusFour : Obligations.FrameIsInjectiveOfLengthPlusFour := by
  have hlen (p : Params) (h : List Byte) : (frame p h).length = h.length + 4 := by simp [frame_eq]
  refine fun p h h' => ⟨hlen p h, fun heq => ?_⟩
  have hlen' : h.length = h'.length := by
    have := congrArg List.length heq
    rwa [hlen, hlen, Nat.add_right_cancel_iff] at this
  rw [frame_eq, frame_eq] at heq
  exact List.append_inj_left (List.cons.inj heq).2 hlen'

theorem cksum_hexPair (v : Byte) :
    cksum (hexPair v) = hexchar (v.extractLsb 7 4) + hexchar (v.extractLsb 3 0) := by
  rw [hexPair, highNibble_eq_extractLsb, lowNibble_eq_extractLsb]
  simp [cksum]

/-! ## The operations -/

/-- Settles O21: the gate's effect and the presence sample. -/
theorem peripheralCheckFollowsPinSequence : Obligations.PeripheralCheckFollowsPinSequence := exec_isPeripheralActive

/-- Settles O24: the gate's effect, then the frame behind it. -/
theorem gatedHexStringSendsFrameOrNothing : Obligations.GatedHexStringSendsFrameOrNothing := exec_sendHexString_gated

/-- Settles O25: the frame alone. -/
theorem ungatedHexStringAlwaysSendsFrame : Obligations.UngatedHexStringAlwaysSendsFrame := exec_sendHexString_ungated

/-- Settles O26: the frame of the byte's two characters, whose checksum is their sum. -/
theorem sendCommandSendsSixByteFrame : Obligations.SendCommandSendsSixByteFrame := by
  intro v s
  rw [exec_sendCommand, frame_eq, cksum_hexPair]
  rfl

/-- Settles O27: the frame of the state's command string. -/
theorem alarmStatesSendTheirCommandFrames : Obligations.AlarmStatesSendTheirCommandFrames := by
  rintro s a h (⟨rfl, rfl⟩ | ⟨rfl, rfl⟩ | ⟨rfl, rfl⟩) <;> exact exec_setAlarmState_known _ s

/-- Settles O28: an unknown value only returns. -/
theorem unknownAlarmStateIsANoOp : Obligations.UnknownAlarmStateIsANoOp := exec_setAlarmState_unknown

/-! ## The pins the gate leaves (R80, 20_memory.md R40) -/

/-- The mode the gate's calls leave on a pin: plain input on the presence pin, none on any other. -/
theorem gateCalls_lastMode (p : Params) (present rail : Bool) (q : Pin) :
    ((gateCalls p present rail).filterMap (PinEvent.modeOf q)).getLast? =
      if p.pinPresence = q then some .input else none := by
  have hrail : ((gateCalls p present rail).drop 3).filterMap (PinEvent.modeOf q) = [] := by
    cases present <;> by_cases hon : rail = p.railOn <;> simp [gateCalls, PinEvent.modeOf, hon]
  rw [← List.take_append_drop 3 (gateCalls p present rail), List.filterMap_append, hrail]
  by_cases hq : p.pinPresence = q <;> simp [gateCalls, PinEvent.modeOf, List.filterMap_cons, hq]

/-- The level the gate's calls drive a pin to: on at the rail of a present peripheral that reads off. -/
theorem gateCalls_lastDrive (p : Params) (present rail : Bool) (q : Pin) :
    ((gateCalls p present rail).filterMap (PinEvent.drives q)).getLast? =
      if present = true ∧ rail ≠ p.railOn ∧ p.pinRail = q then some p.railOn else none := by
  cases present <;> by_cases hrail : rail = p.railOn <;> by_cases hq : p.pinRail = q <;>
    simp [gateCalls, PinEvent.drives, hq, hrail]

theorem pinMode_afterGate (s : State) (r : Result) (q : Pin) :
    ((afterGate s).ret r).pinMode q = if s.params.pinPresence = q then some .input else s.pinMode q := by
  rw [pinMode_append (s := s) rfl, filterMap_pinCall_pins, gateCalls_lastMode]
  split <;> rfl

theorem pinDriven_afterGate (s : State) (r : Result) (q : Pin) :
    ((afterGate s).ret r).pinDriven q =
      if presence s = true ∧ railLevel s ≠ s.params.railOn ∧ s.params.pinRail = q then some s.params.railOn
      else s.pinDriven q := by
  rw [pinDriven_append (s := s) rfl, filterMap_pinCall_pins, gateCalls_lastDrive]
  split <;> rfl

/-- Settles O55: what the gate's calls leave on each pin, over what stood there before. -/
theorem gateLeavesPinsAsItsContractSays : Obligations.GateLeavesPinsAsItsContractSays := by
  intro s hne
  refine ⟨_, exec_isPeripheralActive s, ?_⟩
  simp only [pinMode_afterGate, pinDriven_afterGate]
  refine ⟨if_pos trivial, if_neg ?_, if_neg hne, ?_, fun q hp hr => ⟨if_neg hp.symm, if_neg ?_⟩⟩
  · rintro ⟨-, -, h⟩
    exact hne h.symm
  · simp only [and_true]
  · rintro ⟨-, -, h⟩
    exact hr h.symm

end Sys2Proof.Machine

/-! SUPPORT. The five per-byte actions as data (42_receive_state_machine.md R113 to R122): what a byte selects depends on
the parameters, the cursor and the byte alone, so that states in the same regime take the same action. -/

namespace Sys2Proof.Machine

/-! ## The actions and what selects them (R122) -/

/-- The next state of NIBBLE at buffer index `i` (R118 to R120). -/
def storeNibble (i : Fin 6) (n : Nibble) (s : State) : State :=
  { s with
    block := { cursor := s.block.cursor + 1
               buf := s.block.buf.set i.val (nibbleByte s.block.cursor s.block.buf[i] n) i.isLt }
    result := none }

/-- The five per-byte actions; NIBBLE with the index it writes and the digit it writes there. -/
inductive Action where
  | search
  | endFrame
  | overflow
  | invalid
  | nibble (i : Fin 6) (n : Nibble)

def Action.run (b : Byte) (s : State) : Action → State
  | .search => Machine.search b s
  | .endFrame => endOfFrame s
  | .overflow => overflowDrop s
  | .invalid => invalidChar s
  | .nibble i n => storeNibble i n s

/-- The conditions of R122 under which the byte `b` selects an action at the cursor `c`. -/
def Action.Selected (p : Params) (c : Int) (b : Byte) : Action → Prop
  | .search => c < 0
  | .endFrame => 0 ≤ c ∧ b = p.etx
  | .overflow => 12 ≤ c ∧ b ≠ p.etx
  | .invalid => 0 ≤ c ∧ c < 12 ∧ b ≠ p.etx ∧ hexval b = none
  | .nibble i n => 2 * (i.val : Int) ≤ c ∧ c ≤ 2 * (i.val : Int) + 1 ∧ b ≠ p.etx ∧ hexval b = some n

theorem receiveByte_of_selected {a : Action} {b : Byte} {s : State} (h : a.Selected s.params s.block.cursor b) :
    receiveByte b s = .next (a.run b s) := by
  cases a with
  | search => exact receiveByte_of_idle h b
  | endFrame =>
    obtain ⟨h0, rfl⟩ := h
    exact receiveByte_etx h0
  | overflow =>
    obtain ⟨h12, hb⟩ := h
    exact receiveByte_of_overflow h12 hb
  | invalid =>
    obtain ⟨h0, h12, hb, hv⟩ := h
    simp [receiveByte, not_lt.2 h0, hb, maxHex, not_le.2 h12, hv, Action.run]
  | nibble i n =>
    obtain ⟨hlo, hhi, hb, hv⟩ := h
    have h12 : s.block.cursor < 12 := by omega
    have hi : halfCursor s.block.cursor = i.val := by
      unfold halfCursor
      omega
    rw [receiveByte_of_hexval (by omega) h12 hb hv, nibble_eq n s h12]
    simp only [hi]
    rfl

/-- Every byte selects an action at every cursor. -/
theorem Action.exists_selected (p : Params) (c : Int) (b : Byte) : ∃ a : Action, a.Selected p c b := by
  by_cases h0 : c < 0
  · exact ⟨.search, h0⟩
  by_cases hb : b = p.etx
  · exact ⟨.endFrame, by omega, hb⟩
  by_cases h12 : 12 ≤ c
  · exact ⟨.overflow, h12, hb⟩
  cases hv : hexval b with
  | none => exact ⟨.invalid, by omega, by omega, hb, hv⟩
  | some n => exact ⟨.nibble ⟨(c / 2).toNat, by omega⟩ n, by simp; omega, by simp; omega, hb, hv⟩

/-- Whatever a received byte does is the action it selects. -/
theorem receiveByte_eq_next {b : Byte} {s t : State} (h : receiveByte b s = .next t) :
    ∃ a : Action, a.Selected s.params s.block.cursor b ∧ t = a.run b s := by
  obtain ⟨a, ha⟩ := Action.exists_selected s.params s.block.cursor b
  rw [receiveByte_of_selected ha] at h
  cases h
  exact ⟨a, ha, rfl⟩

/-! ## What the actions leave -/

/-- INVALID in one equation (R117). -/
theorem invalidChar_eq (s : State) :
    invalidChar s = { s with
      block := { s.block with cursor := if s.params.policy = .preserve then s.block.cursor else -1 }
      result := some (pollResult (invalidStatus s.params.policy)) } := by
  unfold invalidChar
  cases hpol : s.params.policy <;> rfl

/-- The status an action returns with (R124, D17); none where the poll goes on. -/
def Action.status (p : Params) (c : Int) : Action → Option PollStatus
  | .search => none
  | .endFrame => some (frameStatus (decide (4 ≤ c)))
  | .overflow => some .awaitingMore
  | .invalid => some (invalidStatus p.policy)
  | .nibble _ _ => none

theorem Action.run_result (a : Action) (b : Byte) (s : State) :
    (a.run b s).result = (a.status s.params s.block.cursor).map pollResult := by
  cases a with
  | search => rw [Action.run, search_eq]; rfl
  | endFrame =>
    rw [Action.run, endOfFrame_eq]
    simp only [one_lt_halfCursor_iff]
    rfl
  | overflow => rfl
  | invalid => rw [Action.run, invalidChar_eq]; rfl
  | nibble i n => rfl

theorem Action.run_result_eq_none_iff (a : Action) (b : Byte) (s : State) :
    (a.run b s).result = none ↔ a.status s.params s.block.cursor = none := by
  rw [a.run_result, Option.map_eq_none_iff]

/-- No action reads the queue or what was returned before (20_memory.md R42; log entry 18). -/
theorem Action.run_with_rxq_result (a : Action) (b : Byte) (s : State) (q : List Byte) (r : Option Result) :
    a.run b { s with rxq := q, result := r } = { a.run b s with rxq := q } := by
  cases a with
  | search => simp only [Action.run, search_eq]
  | endFrame => simp only [Action.run, endOfFrame_eq]; rfl
  | overflow => rfl
  | invalid => simp only [Action.run, invalidChar_eq]
  | nibble i n => rfl

theorem Action.run_setRxq (a : Action) (b : Byte) (s : State) (q : List Byte) :
    a.run b (s.setRxq q) = (a.run b s).setRxq q :=
  a.run_with_rxq_result b s q s.result

/-- `t` is `s` with only the receiver's state, its queue and the result changed: nothing sent, dispatched or asked. -/
def OnlyReceived (s t : State) : Prop :=
  ∃ (blk : Block) (q : List Byte) (r : Option Result), t = { s with block := blk, rxq := q, result := r }

theorem OnlyReceived.trans {s t u : State} (h₁ : OnlyReceived s t) (h₂ : OnlyReceived t u) : OnlyReceived s u := by
  obtain ⟨_, _, _, rfl⟩ := h₁
  obtain ⟨blk, q, r, rfl⟩ := h₂
  exact ⟨blk, q, r, rfl⟩

theorem OnlyReceived.trace_eq {s t : State} (h : OnlyReceived s t) : t.trace = s.trace := by
  obtain ⟨_, _, _, rfl⟩ := h
  rfl

theorem onlyReceived_setRxq (s : State) (q : List Byte) : OnlyReceived s (s.setRxq q) := ⟨_, _, _, rfl⟩

theorem onlyReceived_ret (s : State) (r : Result) : OnlyReceived s (s.ret r) := ⟨_, _, _, rfl⟩

/-- The end-of-frame event is the one action that reaches outside the receiver. -/
theorem Action.run_onlyReceived {a : Action} (h : a ≠ .endFrame) (b : Byte) (s : State) :
    OnlyReceived s (a.run b s) := by
  cases a with
  | search => rw [Action.run, search_eq]; exact ⟨_, _, _, rfl⟩
  | endFrame => exact absurd rfl h
  | overflow => exact ⟨_, _, _, rfl⟩
  | invalid => rw [Action.run, invalidChar_eq]; exact ⟨_, _, _, rfl⟩
  | nibble i n => exact ⟨_, _, _, rfl⟩

/-! ## Received bytes as instructions -/

theorem exec_decodeRx (b : Byte) (s : State) : exec (decodeRx s.params b) s = receiveByte b s := by
  rcases decodeRx_cases s.params b with ⟨hb, e⟩ | ⟨hb, e⟩ | ⟨n, hn, e⟩ | ⟨-, e⟩ <;> rw [e]
  · rw [hb]; rfl
  · rw [hb]; rfl
  · rw [exec_hexInstr, hexchar_of_hexval hn]
  · rfl

/-- A well-formed received byte runs the action its byte selects, and is the class of that byte. -/
theorem exec_eq_run_of_line {i : Instr} {s : State} (hok : s.params.ok = true) (hwf : i.wellFormed s.params = true)
    (hline : i.source = .line) : ∃ b a, decodeRx s.params b = i ∧
      Action.Selected s.params s.block.cursor b a ∧ exec i s = .next (a.run b s) := by
  obtain ⟨b, -, hdec⟩ := decodeRx_encode_of_line hok hwf hline
  obtain ⟨a, ha⟩ := Action.exists_selected s.params s.block.cursor b
  exact ⟨b, a, hdec, ha, by rw [← hdec, exec_decodeRx, receiveByte_of_selected ha]⟩

/-- Settles O35: STX and a byte of class OTHER are neither the end marker nor hex digits. -/
theorem invalidByteEndsThePoll : Obligations.InvalidByteEndsThePoll := by
  intro i s hok hwf hi h0 h11
  obtain ⟨hne, hstx, -⟩ := (params_ok_iff s.params).1 hok
  have invalid {b : Byte} (hb : b ≠ s.params.etx) (hv : hexval b = none) :=
    receiveByte_of_selected (a := .invalid) (s := s) ⟨h0, by omega, hb, hv⟩
  simp only [Action.run, invalidChar_eq] at invalid
  refine ⟨invalidStatus s.params.policy, ?_⟩
  obtain rfl | ⟨b, rfl⟩ := hi
  · exact invalid hne ((hexval_eq_none_iff _).2 hstx)
  · obtain ⟨-, hetx, hv⟩ := (isOtherByte_iff s.params b).1 hwf
    exact invalid hetx hv

/-- Settles O38: a half-completed byte is below 16, so that shifting it loses no bit. -/
theorem completedByteIsItsTwoNibbles : Obligations.CompletedByteIsItsTwoNibbles := by
  rintro n s i ⟨hok, -, hclean, -⟩ hc
  refine ⟨_, oddCursorCompletesTheByte n s i hok hc, ?_⟩
  have hset : (s.block.buf.set i.val (shiftIn s.block.buf[i] n) i.isLt)[i] = shiftIn s.block.buf[i] n := by simp
  change ((s.block.buf.set i.val (shiftIn s.block.buf[i] n) i.isLt)[i]).toNat = _
  rw [hset, shiftIn_toNat, Nat.mod_eq_of_lt (hclean i hc)]

/-- Settles O39: of the actions only END, and INVALID under ResetToIdle, lower the cursor, and the byte that selects them
is of the class named. -/
theorem onlyEndMarkerOrPolicyLeavesAFrame : Obligations.OnlyEndMarkerOrPolicyLeavesAFrame := by
  intro i s t hok hwf hline hexec h0 hneg
  obtain ⟨b, a, rfl, ha, he⟩ := exec_eq_run_of_line hok hwf hline
  rw [he] at hexec
  cases hexec
  cases a with
  | search => exact absurd ha (not_lt.2 h0)
  | endFrame => exact .inl (ha.2 ▸ decodeRx_etx hok)
  | overflow => exact absurd hneg (not_lt.2 h0)
  | invalid =>
    obtain ⟨-, h12, hb, hv⟩ := ha
    simp only [Action.run, invalidChar_eq] at hneg
    have hpol : s.params.policy = .resetToIdle := by
      cases hpol : s.params.policy with
      | preserve =>
        rw [if_pos hpol] at hneg
        exact absurd hneg (not_lt.2 h0)
      | resetToIdle => rfl
    refine .inr ⟨hpol, by omega, ?_⟩
    rcases decodeRx_cases s.params b with ⟨-, e⟩ | ⟨hetx, -⟩ | ⟨n, hn, -⟩ | ⟨-, e⟩
    · exact .inl e
    · exact absurd hetx hb
    · exact absurd (hn.symm.trans hv) nofun
    · exact .inr ⟨b, e⟩
  | nibble i n =>
    change s.block.cursor + 1 < 0 at hneg
    omega

end Sys2Proof.Machine

/-! SUPPORT. The poll as a chain of actions (42_receive_state_machine.md R110, R112, R121, R124): one turn of the drain
loop, the induction over a whole poll, and what the poll returns and consumes. -/

namespace Sys2Proof.Machine

/-! ## One turn of the loop -/

/-- The loop reads a byte, runs the action it selects, and goes on unless the action has returned (R112). -/
theorem drain_of_selected {a : Action} {s : State} {b : Byte} {q : List Byte} (hq : s.rxq = b :: q)
    (ha : a.Selected s.params s.block.cursor b) (n : Nat) :
    drain (n + 1) s = unlessReturned ((a.run b s).setRxq q) (drain n) := by
  rw [drain_cons n s b q hq, receiveByte_of_selected (s := s.setRxq q) ha, andThen_next, a.run_setRxq]

theorem poll_of_selected {a : Action} {s : State} {b : Byte} {q : List Byte} (hq : s.rxq = b :: q)
    (ha : a.Selected s.params s.block.cursor b) :
    exec .pollReceive s = unlessReturned ((a.run b s).setRxq q) (drain q.length) :=
  (execPollReceive_cons hq).trans (drain_of_selected hq ha q.length)

theorem unlessReturned_run_of_status_none {a : Action} {b : Byte} {s : State} {q : List Byte}
    (h : a.status s.params s.block.cursor = none) (f : State → Out) :
    unlessReturned ((a.run b s).setRxq q) f = f ((a.run b s).setRxq q) :=
  unlessReturned_none (State.setRxq_result _ q ▸ (a.run_result_eq_none_iff b s).2 h) f

theorem unlessReturned_run_of_status_some {a : Action} {b : Byte} {s : State} {q : List Byte} {st : PollStatus}
    (h : a.status s.params s.block.cursor = some st) (f : State → Out) :
    unlessReturned ((a.run b s).setRxq q) f = .next ((a.run b s).setRxq q) :=
  unlessReturned_some (r := pollResult st) (by rw [State.setRxq_result, a.run_result, h]; rfl) f

/-- The rest of a poll, with `q` the bytes left: it returns where there is none (R121), otherwise it is a poll. -/
theorem drain_length_rxq (s : State) :
    drain s.rxq.length s =
      if s.rxq = [] then .next { s with result := some (.poll true .awaitingMore) } else exec .pollReceive s := by
  split
  next hq =>
    have hlen : s.rxq.length = 0 := List.length_eq_zero_iff.2 hq
    rw [hlen]
    rfl
  next hq =>
    obtain ⟨b, q, hq⟩ := List.exists_cons_of_ne_nil hq
    rw [hq]
    exact (execPollReceive_cons hq).symm

/-- Packages the induction over a poll by its actions: a relation holds between the states a poll starts from and ends in
if it holds of a return, of an action that returns, and passes back over an action that lets the poll go on. -/
theorem poll_induction {Q : State → State → Prop} (hret : ∀ s st, Q s (s.ret (pollResult st)))
    (hlast : ∀ s b q (a : Action), s.rxq = b :: q → a.Selected s.params s.block.cursor b →
      a.status s.params s.block.cursor ≠ none → Q s ((a.run b s).setRxq q))
    (hgo : ∀ s b q (a : Action) u, s.rxq = b :: q → a.Selected s.params s.block.cursor b →
      a.status s.params s.block.cursor = none → Q ((a.run b s).setRxq q) u → Q s u)
    {s u : State} (h : exec .pollReceive s = .next u) : Q s u := by
  rcases execPollReceive_cases h with ⟨-, rfl⟩ | h
  · exact hret s .idle
  refine drain_induction (fun s => hret s .awaitingMore) (fun s b q t u hq ht hnone hsome => ?_) _ s u rfl h
  obtain ⟨a, ha, rfl⟩ := receiveByte_eq_next ht
  rw [a.run_setRxq] at hnone hsome
  by_cases hst : a.status s.params s.block.cursor = none
  · exact hgo s b q a u hq ha hst (hnone ((a.run_result_eq_none_iff b s).2 hst))
  · rw [hsome (mt (a.run_result_eq_none_iff b s).1 hst)]
    exact hlast s b q a hq ha hst

/-- Settles O41: a poll's first turn is the action of its first byte, and what is left of it is a poll. -/
theorem pollRunsTheClassOfEachByte : Obligations.PollRunsTheClassOfEachByte := by
  intro s b q _ hq
  obtain ⟨a, ha⟩ := Action.exists_selected s.params s.block.cursor b
  refine ⟨(a.run b s).setRxq q, ?_, ?_⟩
  · rw [← a.run_setRxq]
    exact (exec_decodeRx b (s.setRxq q)).trans (receiveByte_of_selected (s := s.setRxq q) ha)
  · rw [poll_of_selected hq ha, unlessReturned]
    cases ((a.run b s).setRxq q).result with
    | some r => rfl
    | none => exact drain_length_rxq ((a.run b s).setRxq q)

/-! ## What a poll returns (R124) -/

theorem poll_result {s u : State} (h : exec .pollReceive s = .next u) : ∃ st, u.result = some (.poll true st) := by
  refine poll_induction (Q := fun _ u => ∃ st, u.result = some (.poll true st)) (fun s st => ⟨st, rfl⟩)
    (fun s b q a _ _ hst => ?_) (fun _ _ _ _ _ _ _ _ ih => ih) h
  obtain ⟨st, hst⟩ := Option.ne_none_iff_exists'.1 hst
  exact ⟨st, by rw [State.setRxq_result, a.run_result, hst]; rfl⟩

/-- Settles O42: an action that ends the poll returns true, and so do the empty queue and the last byte read. -/
theorem pollAlwaysReturnsTrue : Obligations.PollAlwaysReturnsTrue := by
  intro s
  obtain ⟨t, ht⟩ := execPollReceive_completes s
  obtain ⟨st, hst⟩ := poll_result ht
  exact ⟨t, st, ht, hst⟩

/-- A poll of one byte has its action's status, and AwaitingMore where the action has none (R121). -/
theorem poll_singleton_result {a : Action} {s : State} {b : Byte} (hq : s.rxq = [b])
    (ha : a.Selected s.params s.block.cursor b) :
    ∃ u, exec .pollReceive s = .next u ∧
      u.result = some (.poll true ((a.status s.params s.block.cursor).getD .awaitingMore)) := by
  rw [poll_of_selected hq ha]
  cases hst : a.status s.params s.block.cursor with
  | none => exact ⟨_, unlessReturned_run_of_status_none hst _, rfl⟩
  | some st =>
    refine ⟨_, unlessReturned_run_of_status_some hst _, ?_⟩
    rw [State.setRxq_result, a.run_result, hst]
    rfl

/-- Settles O43: the statuses of the five actions, by the conditions that select them. -/
theorem statusNamesTheReturnPath : Obligations.StatusNamesTheReturnPath := by
  intro s b
  refine ⟨⟨_, execPollReceive_nil rfl, rfl⟩, ?_⟩
  obtain ⟨a, ha⟩ := Action.exists_selected s.params s.block.cursor b
  obtain ⟨u, hu, hres⟩ := poll_singleton_result (s := { s with rxq := [b] }) rfl ha
  refine ⟨u, hu, hres.trans ?_⟩
  congr 2
  cases a with
  | search =>
    have hneg : ¬ 0 ≤ s.block.cursor := not_le.2 ha
    simp [Action.status, hneg]
  | endFrame => simp [Action.status, ha.1, ha.2, frameStatus]
  | overflow =>
    have h11 : ¬ s.block.cursor ≤ 11 := not_le.2 (lt_of_lt_of_le (by decide) ha.1)
    simp [Action.status, ha.2, h11]
  | invalid =>
    obtain ⟨h0, h12, hb, hv⟩ := ha
    have h11 : s.block.cursor ≤ 11 := by omega
    cases hpol : s.params.policy <;> simp [Action.status, h0, h11, hb, hv, hpol, invalidStatus]
  | nibble i n =>
    obtain ⟨-, -, hb, hv⟩ := ha
    simp [Action.status, hb, hv]

/-! ## What a poll consumes (20_memory.md R44) -/

theorem poll_reads_from_head {s u : State} (h : exec .pollReceive s = .next u) : ∃ used, s.rxq = used ++ u.rxq := by
  refine poll_induction (Q := fun s u => ∃ used, s.rxq = used ++ u.rxq) (fun s st => ⟨[], rfl⟩)
    (fun s b q a hq _ _ => ⟨[b], hq⟩) (fun s b q a u hq _ _ ih => ?_) h
  obtain ⟨used, hused⟩ := ih
  rw [State.setRxq_rxq] at hused
  exact ⟨b :: used, by rw [hq, hused, List.cons_append]⟩

/-- Settles O44: the first byte is always read, and the rest of the poll reads on from there. -/
theorem pollConsumesAPrefixOfTheQueue : Obligations.PollConsumesAPrefixOfTheQueue := by
  intro s t h
  cases hq : s.rxq with
  | nil =>
    obtain ⟨used, hused⟩ := poll_reads_from_head h
    exact ⟨used, hq ▸ hused, fun hne => absurd rfl hne⟩
  | cons b q =>
    suffices hrest : ∃ used, q = used ++ t.rxq by
      obtain ⟨used, hused⟩ := hrest
      exact ⟨b :: used, by rw [List.cons_append, ← hused], fun _ => List.cons_ne_nil b used⟩
    obtain ⟨a, ha⟩ := Action.exists_selected s.params s.block.cursor b
    rw [poll_of_selected hq ha] at h
    cases hst : a.status s.params s.block.cursor with
    | some st =>
      rw [unlessReturned_run_of_status_some hst] at h
      cases h
      exact ⟨[], rfl⟩
    | none =>
      rw [unlessReturned_run_of_status_none hst] at h
      have hrest := (drain_length_rxq ((a.run b s).setRxq q)).symm.trans h
      split at hrest
      · cases hrest
        exact ⟨[], rfl⟩
      · exact poll_reads_from_head hrest

/-- In the overflow regime a poll drops one byte and returns (R116). -/
theorem poll_of_overflow {s : State} {b : Byte} {q : List Byte} (h12 : 12 ≤ s.block.cursor) (hq : s.rxq = b :: q)
    (hb : b ≠ s.params.etx) :
    exec .pollReceive s = .next { s with rxq := q, result := some (pollResult .awaitingMore) } :=
  poll_of_selected (a := .overflow) hq ⟨h12, hb⟩

/-- Settles O34: OVERFLOW returns at once. -/
theorem overflowDrainsOneBytePerPoll : Obligations.OverflowDrainsOneBytePerPoll :=
  fun _ _ _ h12 hq hb => ⟨.awaitingMore, poll_of_overflow h12 hq hb⟩

end Sys2Proof.Machine

/-! SUPPORT. What a poll changes (70_reset_and_hazards.md R176, R177): nothing outside the receiver, or one end-of-frame
event at its end. -/

namespace Sys2Proof.Machine

/-! ## What the end-of-frame event leaves of the receiver (60_exceptions.md R150) -/

@[simp] theorem endOfFrame_params (s : State) : (endOfFrame s).params = s.params := by
  rw [endOfFrame_eq]
  rfl

@[simp] theorem endOfFrame_cursor (s : State) : (endOfFrame s).block.cursor = -1 := by
  rw [endOfFrame_eq]

@[simp] theorem endOfFrame_rxq (s : State) : (endOfFrame s).rxq = s.rxq := by
  rw [endOfFrame_eq]
  rfl

/-! ## At most one frame -/

/-- A received byte takes the cursor to 12 at most. -/
theorem Action.run_cursor_le {a : Action} {b : Byte} {s : State} (ha : a.Selected s.params s.block.cursor b)
    (h : s.block.cursor ≤ 12) : (a.run b s).block.cursor ≤ 12 := by
  cases a with
  | search =>
    simp only [Action.run, search_eq]
    split <;> omega
  | endFrame => simp [Action.run]
  | overflow => exact h
  | invalid =>
    simp only [Action.run, invalidChar_eq]
    split <;> omega
  | nibble i n =>
    obtain ⟨-, hhi, -⟩ := ha
    change s.block.cursor + 1 ≤ 12
    omega

/-- A poll only receives, or receives and then ends one frame. -/
def PollEffect (s u : State) : Prop :=
  OnlyReceived s u ∨ ∃ m, OnlyReceived s m ∧ (s.block.cursor ≤ 12 → m.block.cursor ≤ 12) ∧ u = endOfFrame m

theorem poll_effect {s u : State} (h : exec .pollReceive s = .next u) : PollEffect s u := by
  refine poll_induction (Q := PollEffect) (fun s st => .inl (onlyReceived_ret s _)) (fun s b q a hq ha hst => ?_)
    (fun s b q a u hq ha hst ih => ?_) h
  · by_cases hend : a = .endFrame
    · subst hend
      exact .inr ⟨s.setRxq q, onlyReceived_setRxq s q, id, (Action.endFrame.run_setRxq b s q).symm⟩
    · exact .inl ((Action.run_onlyReceived hend b s).trans (onlyReceived_setRxq _ q))
  · have hrun : OnlyReceived s ((a.run b s).setRxq q) := by
      refine (Action.run_onlyReceived ?_ b s).trans (onlyReceived_setRxq _ q)
      rintro rfl
      cases hst
    obtain ht | ⟨m, hm, h12, rfl⟩ := ih
    · exact .inl (hrun.trans ht)
    · exact .inr ⟨m, hrun.trans hm, fun h => h12 (Action.run_cursor_le ha h), rfl⟩

/-- Settles O46: before the end-of-frame event only the receiver's state has changed, so that the event's gate and
acknowledgment are those of the state the poll started from, and its cursor of at most 12 gives a length of at most 5. -/
theorem onePollEndsAtMostOneFrame : Obligations.OnePollEndsAtMostOneFrame := by
  intro s t h12 h
  obtain ⟨_, _, _, rfl⟩ | ⟨m, ⟨blk, q, r, rfl⟩, hle, rfl⟩ := poll_effect h
  · exact ⟨rfl, rfl, rfl, .inl ⟨rfl, rfl, rfl⟩⟩
  rw [endOfFrame_eq]
  refine ⟨rfl, rfl, rfl, .inr ⟨rfl, rfl, rfl, _, rfl, ?_⟩⟩
  have hhalf : halfCursor blk.cursor ≤ 6 := by
    have hcursor : blk.cursor ≤ 12 := hle h12
    unfold halfCursor
    omega
  split
  next htwo =>
    have hk : 1 < halfCursor blk.cursor := htwo
    exact .inr ⟨halfCursor blk.cursor - 1, by omega, by omega, rfl⟩
  next => exact .inl rfl

/-! ## No end marker (R146, R177) -/

/-- Under Preserve no byte but the end marker lowers the cursor of a machine in mid-frame. -/
theorem Action.le_run_cursor {a : Action} {b : Byte} {s : State} (ha : a.Selected s.params s.block.cursor b)
    (hpol : s.params.policy = .preserve) (h0 : 0 ≤ s.block.cursor) (hb : b ≠ s.params.etx) :
    s.block.cursor ≤ (a.run b s).block.cursor := by
  cases a with
  | search => exact absurd ha (not_lt.2 h0)
  | endFrame => exact absurd ha.2 hb
  | overflow => exact le_rfl
  | invalid =>
    simp only [Action.run, invalidChar_eq, hpol, if_true]
    exact le_rfl
  | nibble i n => exact Int.le_add_one le_rfl

/-- What a poll does to a machine in mid-frame under Preserve with no end marker in the queue. -/
def StaysInFrame (s u : State) : Prop :=
  s.params.policy = .preserve → 0 ≤ s.block.cursor → s.params.etx ∉ s.rxq →
    s.block.cursor ≤ u.block.cursor ∧ u.trace = s.trace

theorem Action.run_staysInFrame {a : Action} {b : Byte} {s : State} {q : List Byte} (hq : s.rxq = b :: q)
    (ha : a.Selected s.params s.block.cursor b) : StaysInFrame s ((a.run b s).setRxq q) := by
  intro hpol h0 hetx
  have hb : b ≠ s.params.etx := by
    rintro rfl
    exact hetx (hq ▸ List.mem_cons_self)
  have hend : a ≠ .endFrame := by
    rintro rfl
    exact hb ha.2
  exact ⟨Action.le_run_cursor ha hpol h0 hb, (Action.run_onlyReceived hend b s).trace_eq⟩

/-- Settles O47: without an end marker no frame is ended, and under Preserve no other action lowers the cursor. -/
theorem lostEndMarkerKeepsMachineInFrame : Obligations.LostEndMarkerKeepsMachineInFrame := by
  intro s t hpol h0 hetx h
  refine poll_induction (Q := StaysInFrame) (fun s st _ _ _ => ⟨le_rfl, rfl⟩)
    (fun s b q a hq ha _ => Action.run_staysInFrame hq ha) (fun s b q a u hq ha _ ih hpol h0 hetx => ?_) h hpol h0 hetx
  obtain ⟨hle, htrace⟩ := Action.run_staysInFrame hq ha hpol h0 hetx
  obtain ⟨hparams, -⟩ := receiveByte_frame (receiveByte_of_selected ha)
  have hrest : s.params.etx ∉ q := fun hmem => hetx (hq ▸ List.mem_cons_of_mem b hmem)
  obtain ⟨hle', htrace'⟩ := ih (hparams ▸ hpol) (h0.trans hle) (hparams ▸ hrest)
  exact ⟨hle.trans hle', htrace'.trans htrace⟩

end Sys2Proof.Machine

/-! SUPPORT. The configuration and the step (00_scope.md R5, R7): what a step can do, that no instruction writes a
parameter, and with the gate inactive no byte. -/

namespace Sys2Proof.Machine

/-! ## Parameters (R5) -/

theorem poll_params {s u : State} (h : exec .pollReceive s = .next u) : u.params = s.params := by
  obtain ⟨_, _, _, rfl⟩ | ⟨m, ⟨_, _, _, rfl⟩, -, rfl⟩ := poll_effect h
  · rfl
  · rw [endOfFrame_params]

theorem exec_params {i : Instr} {s t : State} (h : exec i s = .next t) : t.params = s.params := by
  cases hsrc : i.source with
  | line =>
    obtain ⟨b, -, he⟩ := exec_eq_receiveByte_of_line hsrc s
    exact (receiveByte_frame (he ▸ h)).1
  | port =>
    by_cases hpoll : i = .pollReceive
    · exact poll_params (hpoll ▸ h)
    · obtain ⟨-, hparams, -⟩ := encoderIsStatelessAndLeavesReceiverAlone i s t hsrc hpoll h
      exact hparams

/-! ## What a step can do (R7) -/

/-- The state a call runs in: the environment's bytes arrived, the call's bytes taken, `calls` behind them. -/
def beforeCall (s : State) (calls : List Byte) : State :=
  { s with rxq := s.rxq ++ s.arrivals.headD [], arrivals := s.arrivals.tail, calls := calls }

theorem step_of_decodeCall {s : State} {i : Instr} {rest : List Byte} (hok : s.params.ok = true)
    (h : decodeCall s.calls = .ok (i, rest)) : step s = exec i (beforeCall s rest) := by
  rw [step, if_pos hok, nextCall_of_decodeCall (s := deliver s) h]
  rfl

theorem step_of_no_call {s : State} (hok : s.params.ok = true) (h : s.calls = []) : step s = .next (deliver s) := by
  rw [step, if_pos hok, nextCall_nil (s := deliver s) h]

theorem step_of_not_ok {s : State} (hok : s.params.ok = false) : step s = .refused .inadmissibleParameters := by
  simp [step, hok]

theorem nextCall_of_decodeCall_error {s : State} {e : DecodeError} (hne : s.calls ≠ [])
    (h : decodeCall s.calls = .error e) : nextCall s = some (.error e) := by
  unfold nextCall
  cases hc : s.calls with
  | nil => exact absurd hc hne
  | cons c cs => simp [← hc, h]

/-- Everything a step can do: refuse the configuration, let bytes arrive, run a call, refuse a malformed one. -/
theorem step_cases (s : State) :
    (s.params.ok = false ∧ step s = .refused .inadmissibleParameters) ∨
    (s.params.ok = true ∧ step s = .next (deliver s)) ∨
    (s.params.ok = true ∧ ∃ i rest, decodeCall s.calls = .ok (i, rest) ∧ step s = exec i (beforeCall s rest)) ∨
    (s.params.ok = true ∧ ∃ e, step s = .refused (.malformedCall e)) := by
  cases hok : s.params.ok with
  | false => exact .inl ⟨rfl, step_of_not_ok hok⟩
  | true =>
    refine .inr ?_
    by_cases hc : s.calls = []
    · exact .inl ⟨rfl, step_of_no_call hok hc⟩
    · cases hd : decodeCall s.calls with
      | ok r => exact .inr (.inl ⟨rfl, r.1, r.2, rfl, step_of_decodeCall hok hd⟩)
      | error e =>
        refine .inr (.inr ⟨rfl, e, ?_⟩)
        rw [step, if_pos hok, nextCall_of_decodeCall_error (s := deliver s) hc hd]

/-- Settles O5: the call that decodes is the next one taken. -/
theorem stepRunsDecodedCall : Obligations.StepRunsDecodedCall := fun _ _ _ => step_of_decodeCall

/-- Settles O6: with no call to take only the arrivals are left. -/
theorem stepWithoutCallOnlyLetsBytesArrive : Obligations.StepWithoutCallOnlyLetsBytesArrive :=
  fun _ => step_of_no_call

/-- Settles O8: the code byte 07 decodes to opSeven, whose meaning is the refusal. -/
theorem codeSevenIsRefused : Obligations.CodeSevenIsRefused := by
  refine fun s => ⟨rfl, fun cs hok hcalls => ?_⟩
  have hdec : decodeCall s.calls = .ok (.opSeven, cs) := hcalls ▸ rfl
  rw [step_of_decodeCall hok hdec]
  rfl

/-- Settles O10: every operation and every received byte has a next state. -/
theorem everyInstructionButCodeSevenCompletes : Obligations.EveryInstructionButCodeSevenCompletes :=
  fun _ s hi => exec_completes hi s

/-- Settles O9: of the instructions only a poll does more than append to the trace, and its actions keep the parameters;
what a step does before its call touches the queues alone. -/
theorem parametersNeverChange : Obligations.ParametersNeverChange := by
  refine ⟨fun i s t => exec_params, fun s t h => ?_⟩
  rcases step_cases s with ⟨-, e⟩ | ⟨-, e⟩ | ⟨-, i, rest, -, e⟩ | ⟨-, _, e⟩ <;> rw [e] at h
  · cases h
  · cases h
    rfl
  · exact (exec_params h).trans rfl
  · cases h

/-! ## Inadmissible configurations (R5, D2) -/

theorem exec_ne_inadmissible (i : Instr) (s : State) : exec i s ≠ .refused .inadmissibleParameters := by
  by_cases hi : i = .opSeven
  · subst hi
    change execOpSeven s ≠ _
    simp [execOpSeven]
  · obtain ⟨t, ht⟩ := exec_completes hi s
    simp [ht]

theorem step_refuses_iff_not_ok (s : State) : step s = .refused .inadmissibleParameters ↔ s.params.ok = false := by
  rcases step_cases s with ⟨hok, e⟩ | ⟨hok, e⟩ | ⟨hok, i, rest, -, e⟩ | ⟨hok, _, e⟩ <;> rw [e, hok]
  · simp
  · simp
  · simp [exec_ne_inadmissible]
  · simp

theorem params_not_ok_iff (p : Params) :
    p.ok = false ↔ p.stx = p.etx ∨ ∃ n : Nibble, hexchar n = p.stx ∨ hexchar n = p.etx := by
  rw [← Bool.not_eq_true, params_ok_iff, exists_or, ← isHexCode_iff_exists_hexchar, ← isHexCode_iff_exists_hexchar,
    ← Bool.not_eq_true, ← Bool.not_eq_true]
  tauto

/-- Settles O7: of a step's branches only the configuration check refuses for the parameters, and the hex-digit codes it
checks for are the values of hexchar. -/
theorem stepRefusesExactlyInadmissibleMarkers : Obligations.StepRefusesExactlyInadmissibleMarkers :=
  fun s => (step_refuses_iff_not_ok s).trans (params_not_ok_iff s.params)

/-! ## The buffer's primitives (20_memory.md R30) -/

/-- Settles O12: below 6 the two primitives are a read and a write of the vector; from 6 on both fault. -/
theorem bufferReadsBackWhatWasWritten : Obligations.BufferReadsBackWhatWasWritten := by
  refine fun s i v => ⟨fun hi => ?_, fun hi => ?_⟩
  · have hi : i < 6 := by omega
    refine ⟨_, memWrite_of_lt hi v s, rfl, fun f => ?_, fun j f hj => ?_⟩
    · rw [memRead_of_lt hi, State.setBuf_buf, Vector.getElem_set_self]
    · by_cases hj6 : j < 6
      · rw [memRead_of_lt hj6, memRead_of_lt hj6, State.setBuf_buf, Vector.getElem_set_ne _ _ (Ne.symm hj)]
      · simp [memRead, hj6]
  · have hi : ¬ i < 6 := by omega
    exact ⟨by simp [memWrite, hi], fun f => by simp [memRead, hi]⟩

/-! ## The end-of-frame event through the views of the trace (60_exceptions.md R150) -/

/-- The message the end-of-frame event dispatches, if it does (R115). -/
def frameMessage (c : Int) (buf : Vector Byte 6) : List DispatchEvent :=
  if 4 ≤ c then [{ bytes := buf, length := halfCursor c - 1 }] else []

theorem endOfFrame_trace (s : State) :
    (endOfFrame s).trace = s.trace ++ ((gateCalls s.params (presence s) (railLevel s)).map .pin ++
      ifActive s [s.params.ack] ++ (frameMessage s.block.cursor s.block.buf).map .dispatch) := by
  rw [endOfFrame_eq]
  simp only [one_lt_halfCursor_iff, afterGate, frameMessage, List.append_assoc]
  split <;> rfl

theorem filterMap_message_dispatches (l : List DispatchEvent) :
    (l.map Event.dispatch).filterMap Event.message = l := by
  induction l <;> simp_all

theorem filterMap_txByte_dispatches (l : List DispatchEvent) :
    (l.map Event.dispatch).filterMap Event.txByte = [] := by
  induction l <;> simp_all

theorem filterMap_pinCall_dispatches (l : List DispatchEvent) :
    (l.map Event.dispatch).filterMap Event.pinCall = [] := by
  induction l <;> simp_all

theorem endOfFrame_txlog (s : State) :
    (endOfFrame s).txlog = s.txlog ++ if presence s then [s.params.ack] else [] := by
  rw [txlog_append (endOfFrame_trace s), List.filterMap_append, List.filterMap_append, filterMap_txByte_pins,
    filterMap_txByte_dispatches, List.append_nil, List.nil_append, ifActive]
  split <;> rfl

theorem endOfFrame_displog (s : State) :
    (endOfFrame s).displog = s.displog ++ frameMessage s.block.cursor s.block.buf := by
  rw [displog_append (endOfFrame_trace s), List.filterMap_append, List.filterMap_append, filterMap_message_pins,
    filterMap_message_ifActive, filterMap_message_dispatches, List.nil_append, List.nil_append]

theorem filterMap_pinCall_ifActive (s : State) (bs : List Byte) : (ifActive s bs).filterMap Event.pinCall = [] := by
  unfold ifActive
  split
  · exact filterMap_pinCall_txs bs
  · rfl

theorem endOfFrame_pinlog (s : State) :
    (endOfFrame s).pinlog = s.pinlog ++ gateCalls s.params (presence s) (railLevel s) := by
  rw [pinlog_append (endOfFrame_trace s), List.filterMap_append, List.filterMap_append, filterMap_pinCall_pins,
    filterMap_pinCall_ifActive, filterMap_pinCall_dispatches, List.append_nil, List.append_nil]

/-! ## An inactive gate (40_activity_gate.md R81, R82, R84) -/

theorem endOfFrame_txlog_of_not_presence {s : State} (h : presence s = false) : (endOfFrame s).txlog = s.txlog := by
  rw [endOfFrame_txlog, h]
  exact List.append_nil _

theorem poll_txlog_of_not_presence {s u : State} (hp : presence s = false) (h : exec .pollReceive s = .next u) :
    u.txlog = s.txlog := by
  obtain ⟨_, _, _, rfl⟩ | ⟨m, ⟨_, _, _, rfl⟩, -, rfl⟩ := poll_effect h
  · rfl
  · exact endOfFrame_txlog_of_not_presence hp

theorem receiveByte_txlog_of_not_presence {b : Byte} {s t : State} (hp : presence s = false)
    (h : receiveByte b s = .next t) : t.txlog = s.txlog := by
  obtain ⟨a, -, rfl⟩ := receiveByte_eq_next h
  by_cases hend : a = .endFrame
  · subst hend
    exact endOfFrame_txlog_of_not_presence hp
  · obtain ⟨_, _, _, e⟩ := Action.run_onlyReceived hend b s
    rw [e]
    rfl

/-- An inactive gate leaves of an operation behind it the three calls on the presence pin. -/
theorem gatedSend_of_not_presence {s : State} (h : presence s = false) (bs : List Byte) (r : Result) :
    (gatedSend bs r s).txlog = s.txlog ∧ (gatedSend bs r s).block = s.block ∧
      (gatedSend bs r s).pinlog = s.pinlog ++ [.setMode s.params.pinPresence .inputPullDown,
        .read s.params.pinPresence false, .setMode s.params.pinPresence .input] := by
  have htrace : (gatedSend bs r s).trace = s.trace ++ (gateCalls s.params false (railLevel s)).map .pin := by
    simp [gatedSend, afterGate, ifActive, h]
  refine ⟨?_, rfl, ?_⟩
  · rw [txlog_append htrace, filterMap_txByte_pins, List.append_nil]
  · rw [pinlog_append htrace, filterMap_pinCall_pins]
    rfl

/-- Settles O29: behind an inactive gate nothing is sent, and what is not gated but sendByte and the ungated
sendHexString sends only acknowledgments, which are. -/
theorem inactiveGateMeansNoByteWritten : Obligations.InactiveGateMeansNoByteWritten := by
  intro i s hp hseven hbyte hhex
  have silent (bs : List Byte) (r : Result) := gatedSend_of_not_presence hp bs r
  cases hsrc : i.source with
  | line =>
    obtain ⟨b, -, he⟩ := exec_eq_receiveByte_of_line hsrc s
    obtain ⟨t, ht⟩ := receiveByte_completes b s
    refine ⟨t, he.trans ht, receiveByte_txlog_of_not_presence hp ht, ?_⟩
    rintro (rfl | ⟨_, rfl⟩ | ⟨_, rfl⟩ | ⟨_, rfl⟩) <;> cases hsrc
  | port =>
    cases i with
    | isPeripheralActive =>
      refine ⟨_, exec_isPeripheralActive s, ?_, by simp⟩
      rw [txlog_append (s := s) rfl, filterMap_txByte_pins, List.append_nil]
    | sendByte b => exact absurd rfl (hbyte b)
    | sendAck => exact ⟨_, exec_sendAck s, (silent _ _).imp_right fun h _ => h⟩
    | sendHexString h g =>
      cases g with
      | true => exact ⟨_, exec_sendHexString_gated h s, (silent _ _).imp_right fun h _ => h⟩
      | false => exact absurd rfl (hhex h)
    | sendCommand v => exact ⟨_, exec_sendCommand v s, (silent _ _).imp_right fun h _ => h⟩
    | setAlarmState a =>
      cases a with
      | known a => exact ⟨_, exec_setAlarmState_known a s, (silent _ _).imp_right fun h _ => h⟩
      | unknown v => exact ⟨_, exec_setAlarmState_unknown v s, rfl, by simp⟩
    | pollReceive =>
      obtain ⟨t, ht⟩ := execPollReceive_completes s
      exact ⟨t, ht, poll_txlog_of_not_presence hp ht, by simp⟩
    | opSeven => exact absurd rfl hseven
    | _ => cases hsrc

end Sys2Proof.Machine

/-! SUPPORT. The run invariant (10_state.md R24, 20_memory.md R35, 42_receive_state_machine.md R115): it holds at reset,
and every action of a received byte, hence every poll, every instruction and every step, keeps it. -/

namespace Sys2Proof.Machine

/-! ## Reset -/

/-- Settles O1: the reset values, and the default markers tested. -/
theorem resetMachineIsIdleAndSilent : Obligations.ResetMachineIsIdleAndSilent := ⟨rfl, rfl, rfl, rfl, rfl⟩

/-- Settles O2: an idle cursor is half way through no byte, and nothing has been dispatched. -/
theorem resetSatisfiesRunInvariant : Obligations.ResetSatisfiesRunInvariant := by
  refine ⟨rfl, by decide, fun i hi => ?_, fun d hd => ?_⟩
  · change (-1 : Int) = _ at hi
    omega
  · cases hd

/-! ## What the invariant looks at -/

/-- The invariant is about the parameters, the block and the dispatches alone. -/
theorem Inv.congr {s t : State} (h : Inv s) (hparams : t.params = s.params) (hblock : t.block = s.block)
    (hdisplog : t.displog = s.displog) : Inv t := by
  unfold Inv cursorLegal halfByteClean dispatchesBounded at *
  rwa [hparams, hblock, hdisplog]

theorem Inv.setRxq {s : State} (h : Inv s) (q : List Byte) : Inv (s.setRxq q) := h

theorem Inv.beforeCall {s : State} (h : Inv s) (calls : List Byte) : Inv (beforeCall s calls) := h

/-- Where the cursor is inside no byte, none is half decoded. -/
theorem halfByteClean_of_cursor {s : State} (h : ∀ i : Fin 6, s.block.cursor ≠ 2 * (i.val : Int) + 1) :
    halfByteClean s :=
  fun i hi => absurd hi (h i)

/-! ## The five actions -/

theorem search_inv {b : Byte} {s : State} (h : Inv s) : Inv (search b s) := by
  obtain ⟨hok, ⟨hlo, hhi⟩, hclean, hdispatch⟩ := h
  rw [search_eq]
  by_cases hb : b = s.params.stx
  · rw [if_pos hb]
    exact ⟨hok, by simp [cursorLegal], halfByteClean_of_cursor fun i => by simp only; omega, hdispatch⟩
  · rw [if_neg hb]
    exact ⟨hok, ⟨hlo, hhi⟩, hclean, hdispatch⟩

theorem invalidChar_inv {s : State} (h : Inv s) : Inv (invalidChar s) := by
  obtain ⟨hok, ⟨hlo, hhi⟩, hclean, hdispatch⟩ := h
  rw [invalidChar_eq]
  by_cases hpol : s.params.policy = .preserve
  · rw [if_pos hpol]
    exact ⟨hok, ⟨hlo, hhi⟩, hclean, hdispatch⟩
  · rw [if_neg hpol]
    exact ⟨hok, by simp [cursorLegal], halfByteClean_of_cursor fun i => by simp only; omega, hdispatch⟩

/-- At most twelve characters are decoded, so the length dispatched, one less than half of them, is at most 5. -/
theorem frameMessage_length {c : Int} {buf : Vector Byte 6} {d : DispatchEvent} (hc : c ≤ 12)
    (hd : d ∈ frameMessage c buf) : 1 ≤ d.length ∧ d.length ≤ 5 := by
  unfold frameMessage at hd
  split at hd
  · obtain rfl := List.mem_singleton.1 hd
    simp only [halfCursor]
    omega
  · cases hd

theorem endOfFrame_inv {s : State} (h : Inv s) : Inv (endOfFrame s) := by
  obtain ⟨hok, ⟨-, hhi⟩, -, hdispatch⟩ := h
  refine ⟨by rwa [endOfFrame_params], by simp [cursorLegal],
    halfByteClean_of_cursor fun i => by rw [endOfFrame_cursor]; omega, fun d hd => ?_⟩
  rw [endOfFrame_displog, List.mem_append] at hd
  exact hd.elim (hdispatch d) (frameMessage_length hhi)

/-- An even cursor `2 i` leaves a nibble below 16 alone in byte `i`; an odd one leaves no byte half decoded. -/
theorem storeNibble_inv {i : Fin 6} {n : Nibble} {s : State} (hlo : 2 * (i.val : Int) ≤ s.block.cursor)
    (hhi : s.block.cursor ≤ 2 * (i.val : Int) + 1) (h : Inv s) : Inv (storeNibble i n s) := by
  obtain ⟨hok, -, -, hdispatch⟩ := h
  refine ⟨hok, ?_, fun j hj => ?_, hdispatch⟩
  · change -1 ≤ s.block.cursor + 1 ∧ s.block.cursor + 1 ≤ 12
    omega
  · change s.block.cursor + 1 = _ at hj
    have hc : s.block.cursor = 2 * (i.val : Int) := by omega
    obtain rfl : j = i := by omega
    have hbyte : nibbleByte s.block.cursor s.block.buf[j] n = zext8 n := hc ▸ nibbleByte_even j.val _ n
    change ((s.block.buf.set j.val (nibbleByte s.block.cursor s.block.buf[j] n) j.isLt)[j.val]).toNat < 16
    rw [Vector.getElem_set_self, hbyte, zext8_toNat]
    exact n.isLt

theorem Action.run_inv {a : Action} {b : Byte} {s : State} (ha : a.Selected s.params s.block.cursor b) (h : Inv s) :
    Inv (a.run b s) := by
  cases a with
  | search => exact search_inv h
  | endFrame => exact endOfFrame_inv h
  | overflow => exact h
  | invalid => exact invalidChar_inv h
  | nibble i n => exact storeNibble_inv ha.1 ha.2.1 h

/-! ## Instructions and steps -/

theorem poll_inv {s u : State} (h : exec .pollReceive s = .next u) : Inv s → Inv u :=
  poll_induction (Q := fun s u => Inv s → Inv u) (fun _ _ hs => hs)
    (fun _ _ q _ _ ha _ hs => (Action.run_inv ha hs).setRxq q)
    (fun _ _ q _ _ _ ha _ ih hs => ih ((Action.run_inv ha hs).setRxq q)) h

/-- Settles O4: a received byte runs one action, a poll a chain of them, and no other operation touches what the
invariant is about. -/
theorem everyInstructionKeepsRunInvariant : Obligations.EveryInstructionKeepsRunInvariant := by
  intro i s t hs h
  cases hsrc : i.source with
  | line =>
    obtain ⟨b, -, he⟩ := exec_eq_receiveByte_of_line hsrc s
    obtain ⟨a, ha, rfl⟩ := receiveByte_eq_next (he ▸ h)
    exact Action.run_inv ha hs
  | port =>
    by_cases hpoll : i = .pollReceive
    · exact poll_inv (hpoll ▸ h) hs
    · obtain ⟨hblock, hparams, -, -, -, hdisplog, -⟩ :=
        encoderIsStatelessAndLeavesReceiverAlone i s t hsrc hpoll h
      exact hs.congr hparams hblock hdisplog

/-- Settles O3: arrivals and the taking of a call touch nothing the invariant is about, and the call keeps it. -/
theorem stepKeepsRunInvariant : Obligations.StepKeepsRunInvariant := by
  intro s t hs h
  rcases step_cases s with ⟨-, e⟩ | ⟨-, e⟩ | ⟨-, i, rest, -, e⟩ | ⟨-, _, e⟩ <;> rw [e] at h
  · cases h
  · cases h
    exact hs.beforeCall s.calls
  · exact everyInstructionKeepsRunInvariant i _ t (hs.beforeCall rest) h
  · cases h

end Sys2Proof.Machine

/-! SUPPORT. Polls compared (20_memory.md R36, R44, 40_activity_gate.md R84, 42_receive_state_machine.md R121): of a queue
in one piece and in two, under different pin answers, over different stale buffer bytes. -/

namespace Sys2Proof.Machine

/-! ## A queue that arrives in two pieces (R121) -/

/-- What was returned before has no part in a poll that reads a byte. -/
theorem drain_ret {s : State} {b : Byte} {q : List Byte} (hq : s.rxq = b :: q) (r : Result) (n : Nat) :
    drain (n + 1) (s.ret r) = drain (n + 1) s := by
  obtain ⟨a, ha⟩ := Action.exists_selected s.params s.block.cursor b
  have hrun : a.run b ((s.ret r).setRxq q) = (a.run b s).setRxq q := a.run_with_rxq_result b s q (some r)
  rw [drain_of_selected hq ha, drain_of_selected (s := s.ret r) hq ha, ← a.run_setRxq, hrun]

/-- If the poll of both pieces reads past the first, the poll of the first alone ends at its end, and the poll of the
second goes on from there. -/
theorem drain_append {q₁ q₂ : List Byte} {s t : State} (hne : q₁ ≠ [])
    (h : drain (q₁.length + q₂.length) (s.setRxq (q₁ ++ q₂)) = .next t) (hlen : t.rxq.length < q₂.length) :
    ∃ u, drain q₁.length (s.setRxq q₁) = .next u ∧ u.rxq = [] ∧ drain q₂.length (u.setRxq q₂) = .next t := by
  induction q₁ generalizing s with
  | nil => exact absurd rfl hne
  | cons b q₁ ih =>
    obtain ⟨a, ha⟩ := Action.exists_selected s.params s.block.cursor b
    have hturn (q : List Byte) (n : Nat) : drain (n + 1) (s.setRxq (b :: q)) =
        unlessReturned ((a.run b s).setRxq q) (drain n) := by
      rw [drain_of_selected (s := s.setRxq (b :: q)) rfl ha n, a.run_setRxq]
      rfl
    rw [List.length_cons, Nat.add_right_comm, List.cons_append, hturn] at h
    rw [List.length_cons, hturn]
    cases hst : a.status s.params s.block.cursor with
    | some st =>
      rw [unlessReturned_run_of_status_some hst] at h
      cases h
      rw [State.setRxq_rxq, List.length_append] at hlen
      omega
    | none =>
      rw [unlessReturned_run_of_status_none hst] at h ⊢
      cases q₁ with
      | nil =>
        refine ⟨_, drain_zero _, rfl, ?_⟩
        obtain ⟨c, q, rfl⟩ := List.exists_cons_of_length_pos (Nat.zero_lt_of_lt hlen)
        rw [List.length_nil, Nat.zero_add] at h
        exact (drain_ret (s := (a.run b s).setRxq (c :: q)) rfl _ _).trans h
      | cons c q₁ => exact ih (List.cons_ne_nil c q₁) h

/-- A poll of a queue that is not empty drains it. -/
theorem poll_setRxq {q : List Byte} (h : q ≠ []) (s : State) :
    exec .pollReceive (s.setRxq q) = drain q.length (s.setRxq q) := by
  obtain ⟨b, q, rfl⟩ := List.exists_cons_of_ne_nil h
  exact execPollReceive_cons rfl

/-- Settles O45: the poll of the first piece stops at its end having returned, which the next poll does not read. -/
theorem splitArrivalDecodesTheSame : Obligations.SplitArrivalDecodesTheSame := by
  intro s t q₁ q₂ hne h hlen
  have hne₂ : q₂ ≠ [] := List.ne_nil_of_length_pos (Nat.zero_lt_of_lt hlen)
  have hdrain := (poll_setRxq (List.append_ne_nil_of_left_ne_nil hne q₂) s).symm.trans h
  rw [List.length_append] at hdrain
  obtain ⟨u, hu, hempty, ht⟩ := drain_append hne hdrain hlen
  exact ⟨u, (poll_setRxq hne s).trans hu, hempty, (poll_setRxq hne₂ u).trans ht⟩

/-! ## Two polls in step -/

/-- A relation between states that two polls keep in step: it fixes what selects the actions and what ends the loop, and
a return, a read from the queue and every action keep it. -/
structure PollSimulation (R : State → State → Prop) : Prop where
  cursor {s s'} : R s s' → s'.block.cursor = s.block.cursor
  params {s s'} : R s s' → s'.params = s.params
  rxq {s s'} : R s s' → s'.rxq = s.rxq
  result {s s'} : R s s' → s'.result = s.result
  ret {s s'} : R s s' → ∀ r, R (s.ret r) (s'.ret r)
  setRxq {s s'} : R s s' → ∀ q, R (s.setRxq q) (s'.setRxq q)
  run {s s'} {a : Action} {b : Byte} : R s s' → a.Selected s.params s.block.cursor b → R (a.run b s) (a.run b s')

theorem PollSimulation.drain {R : State → State → Prop} (hR : PollSimulation R) {n : Nat} {s s' t : State}
    (h : R s s') (hn : s.rxq.length = n) (ht : drain n s = .next t) : ∃ t', drain n s' = .next t' ∧ R t t' := by
  induction n generalizing s s' with
  | zero =>
    cases ht
    exact ⟨_, drain_zero s', hR.ret h _⟩
  | succ n ih =>
    obtain ⟨b, q, hq⟩ := List.exists_cons_of_length_eq_add_one hn
    obtain ⟨a, ha⟩ := Action.exists_selected s.params s.block.cursor b
    have ha' : a.Selected s'.params s'.block.cursor b := by rwa [hR.params h, hR.cursor h]
    have hnext : R ((a.run b s).setRxq q) ((a.run b s').setRxq q) := hR.setRxq (hR.run h ha) q
    rw [drain_of_selected hq ha, unlessReturned] at ht
    rw [drain_of_selected ((hR.rxq h).trans hq) ha', unlessReturned, hR.result hnext]
    cases hres : ((a.run b s).setRxq q).result with
    | some r =>
      rw [hres] at ht
      cases ht
      exact ⟨_, rfl, hnext⟩
    | none =>
      rw [hres] at ht
      exact ih hnext (by simpa [hq] using hn) ht

theorem PollSimulation.poll {R : State → State → Prop} (hR : PollSimulation R) {s s' t : State} (h : R s s')
    (ht : exec .pollReceive s = .next t) : ∃ t', exec .pollReceive s' = .next t' ∧ R t t' := by
  cases hq : s.rxq with
  | nil =>
    cases ht.symm.trans (execPollReceive_nil hq)
    exact ⟨_, execPollReceive_nil ((hR.rxq h).trans hq), hR.ret h _⟩
  | cons b q =>
    obtain ⟨t', ht', hrel⟩ := hR.drain h (by rw [hq]; rfl) ((execPollReceive_cons hq).symm.trans ht)
    exact ⟨t', (execPollReceive_cons ((hR.rxq h).trans hq)).trans ht', hrel⟩

/-! ## Different pin answers (40_activity_gate.md R84) -/

/-- The same receiver, queue, dispatches and result; pins and transmitted bytes may differ. -/
structure SameReception (s s' : State) : Prop where
  block : s'.block = s.block
  params : s'.params = s.params
  rxq : s'.rxq = s.rxq
  displog : s'.displog = s.displog
  result : s'.result = s.result

/-- The one action the gate is asked in is the end-of-frame event, whose dispatch does not depend on the answer. -/
theorem Action.run_sameReception {s s' : State} (h : SameReception s s') (a : Action) (b : Byte) :
    SameReception (a.run b s) (a.run b s') := by
  obtain ⟨hblock, hparams, hrxq, hdisplog, -⟩ := h
  cases a with
  | search =>
    simp only [Action.run, search_eq, hblock, hparams]
    exact ⟨rfl, rfl, hrxq, hdisplog, rfl⟩
  | endFrame =>
    have hd : (endOfFrame s').displog = (endOfFrame s).displog := by
      rw [endOfFrame_displog, endOfFrame_displog, hblock, hdisplog]
    refine ⟨?_, ?_, ?_, hd, ?_⟩ <;> simp only [Action.run, endOfFrame_eq, hblock]
    · exact hparams
    · exact hrxq
  | overflow => exact ⟨hblock, hparams, hrxq, hdisplog, rfl⟩
  | invalid =>
    simp only [Action.run, invalidChar_eq, hblock, hparams]
    exact ⟨rfl, rfl, hrxq, hdisplog, rfl⟩
  | nibble i n =>
    simp only [Action.run, storeNibble, hblock]
    exact ⟨rfl, hparams, hrxq, hdisplog, rfl⟩

theorem sameReception_simulation : PollSimulation SameReception where
  cursor h := congrArg Block.cursor h.block
  params h := h.params
  rxq h := h.rxq
  result h := h.result
  ret h _ := { h with result := rfl }
  setRxq h _ := { h with rxq := rfl }
  run h _ := Action.run_sameReception h _ _

/-- Settles O48: the two polls stay the same in all but pins and transmitted bytes. -/
theorem gateDoesNotAffectReception : Obligations.GateDoesNotAffectReception := by
  intro s t answers reads h
  have hstart : SameReception s { s with pinAnswers := answers, pinReads := reads } := ⟨rfl, rfl, rfl, rfl, rfl⟩
  obtain ⟨t', ht', hend⟩ := sameReception_simulation.poll hstart h
  exact ⟨t', ht', hend.block, hend.rxq, hend.displog, hend.result⟩

/-! ## Different stale buffer bytes (20_memory.md R36, 70_reset_and_hazards.md R171) -/

/-- The same but for buffer bytes the frame in progress has not reached: what was dispatched since `base` says the same
about each frame, and everything else outside the buffer is equal. -/
structure SameFrame (base : List DispatchEvent) (s s' : State) : Prop where
  cursor : s'.block.cursor = s.block.cursor
  buf : sameFrameBytes s.block.cursor s.block.buf s'.block.buf
  params : s'.params = s.params
  rxq : s'.rxq = s.rxq
  pinAnswers : s'.pinAnswers = s.pinAnswers
  pinReads : s'.pinReads = s.pinReads
  result : s'.result = s.result
  txlog : s'.txlog = s.txlog
  pinlog : s'.pinlog = s.pinlog
  displog : ∃ ds ds', s.displog = base ++ ds ∧ s'.displog = base ++ ds' ∧ List.Forall₂ sameMessage ds ds'

/-- Behind a cursor of at most 0 there are no bytes of the frame. -/
theorem sameFrameBytes_of_nonpos {c : Int} (h : c ≤ 0) (a b : Vector Byte 6) : sameFrameBytes c a b :=
  fun i hi => by omega

/-- A nibble makes byte `i` the frame's: at cursor `2 i` it replaces it, at `2 i + 1` it was the frame's already. -/
theorem sameFrameBytes_storeNibble {c : Int} {i : Fin 6} {a b : Vector Byte 6} (hlo : 2 * (i.val : Int) ≤ c)
    (hhi : c ≤ 2 * (i.val : Int) + 1) (h : sameFrameBytes c a b) (n : Nibble) :
    sameFrameBytes (c + 1) (a.set i.val (nibbleByte c a[i] n) i.isLt) (b.set i.val (nibbleByte c b[i] n) i.isLt) := by
  have hwritten : nibbleByte c a[i] n = nibbleByte c b[i] n := by
    by_cases hc : 2 * (i.val : Int) < c
    · rw [h i hc]
    · obtain rfl : c = 2 * (i.val : Int) := by omega
      rw [nibbleByte_even, nibbleByte_even]
  intro j hj
  simp only [Fin.getElem_fin, Vector.getElem_set]
  split
  next => exact hwritten
  next hne => exact h j (by omega)

/-- The dispatched length is one less than the bytes decoded, all of them the frame's. -/
theorem frameMessage_same {c : Int} {a b : Vector Byte 6} (h : sameFrameBytes c a b) :
    List.Forall₂ sameMessage (frameMessage c a) (frameMessage c b) := by
  unfold frameMessage
  split
  next hc =>
    refine .cons ⟨rfl, fun i hi => h i ?_⟩ .nil
    simp only [halfCursor] at hi
    omega
  next => exact .nil

/-! The gate's answers are decided by the oracle alone (20_memory.md R40). -/

theorem presence_congr {s s' : State} (ha : s'.pinAnswers = s.pinAnswers) (hr : s'.pinReads = s.pinReads) :
    presence s' = presence s := by
  rw [presence, presence, pinAnswer, pinAnswer, ha, hr]

theorem railLevel_congr {s s' : State} (ha : s'.pinAnswers = s.pinAnswers) (hr : s'.pinReads = s.pinReads) :
    railLevel s' = railLevel s :=
  presence_congr (s := pinAdvance s) (s' := pinAdvance s') (congrArg List.tail ha) (congrArg (· + 1) hr)

theorem endOfFrame_sameFrame {base : List DispatchEvent} {s s' : State} (h : SameFrame base s s') :
    SameFrame base (endOfFrame s) (endOfFrame s') := by
  have hpresence := presence_congr h.pinAnswers h.pinReads
  have hrail := railLevel_congr h.pinAnswers h.pinReads
  obtain ⟨ds, ds', hds, hds', hsame⟩ := h.displog
  constructor
  case txlog => rw [endOfFrame_txlog, endOfFrame_txlog, h.txlog, hpresence, h.params]
  case pinlog => rw [endOfFrame_pinlog, endOfFrame_pinlog, h.pinlog, hpresence, hrail, h.params]
  case displog =>
    rw [endOfFrame_displog, endOfFrame_displog, hds, hds', h.cursor]
    exact ⟨_, _, List.append_assoc .., List.append_assoc .., List.rel_append hsame (frameMessage_same h.buf)⟩
  all_goals simp only [endOfFrame_eq, afterGate]
  case buf => exact sameFrameBytes_of_nonpos (by decide) _ _
  case params => exact h.params
  case rxq => exact h.rxq
  case pinAnswers => rw [h.pinAnswers, hpresence]
  case pinReads => rw [h.pinReads, hpresence]
  case result => rw [h.cursor]

theorem Action.run_sameFrame {base : List DispatchEvent} {s s' : State} {a : Action} {b : Byte}
    (h : SameFrame base s s') (ha : a.Selected s.params s.block.cursor b) :
    SameFrame base (a.run b s) (a.run b s') := by
  cases a with
  | search =>
    simp only [Action.run, search_eq, h.cursor, h.params]
    refine { h with cursor := rfl, buf := ?_, params := rfl, result := rfl }
    split
    · exact sameFrameBytes_of_nonpos le_rfl _ _
    · exact h.buf
  | endFrame => exact endOfFrame_sameFrame h
  | overflow => exact { h with result := rfl }
  | invalid =>
    simp only [Action.run, invalidChar_eq, h.cursor, h.params]
    refine { h with cursor := rfl, buf := ?_, params := rfl, result := rfl }
    split
    · exact h.buf
    · exact sameFrameBytes_of_nonpos (c := -1) (by decide) _ _
  | nibble i n =>
    simp only [Action.run, storeNibble, h.cursor]
    exact { h with cursor := rfl, buf := sameFrameBytes_storeNibble ha.1 ha.2.1 h.buf n, result := rfl }

theorem sameFrame_simulation (base : List DispatchEvent) : PollSimulation (SameFrame base) where
  cursor h := h.cursor
  params h := h.params
  rxq h := h.rxq
  result h := h.result
  ret h _ := { h with result := rfl }
  setRxq h _ := { h with rxq := rfl }
  run := Action.run_sameFrame

/-- Settles O49: the two polls stay the same but for bytes the frame has not reached. -/
theorem staleBytesNeverEnterAMessage : Obligations.StaleBytesNeverEnterAMessage := by
  intro s t b hb h
  have hstart : SameFrame s.displog s { s with block := { s.block with buf := b } } :=
    ⟨rfl, hb, rfl, rfl, rfl, rfl, rfl, rfl, rfl, [], [], (List.append_nil _).symm, (List.append_nil _).symm, .nil⟩
  obtain ⟨t', ht', hend⟩ := (sameFrame_simulation s.displog).poll hstart h
  exact ⟨t', ht', hend.cursor, hend.buf, hend.rxq, hend.result, hend.txlog, hend.pinlog, hend.displog⟩

end Sys2Proof.Machine

/-! SUPPORT. Whole frames (42_receive_state_machine.md R110, 41_frame_encoder.md R99): the machine in the middle of a frame
as a closed form of the digits received so far, and the frames the encoder builds. -/

namespace Sys2Proof.Machine

/-! ## The buffer after some digits (20_memory.md R34, R35) -/

/-- Byte `i` after the digits `ns`: two digits make it, a lone last one is stored zero-extended, and without a digit of
its own it is the old byte. -/
def decodedByte (ns : List Nibble) (i : Nat) (old : Byte) : Byte :=
  match ns[2 * i]?, ns[2 * i + 1]? with
  | none, _ => old
  | some n, none => zext8 n
  | some hi, some lo => shiftIn (zext8 hi) lo

def decodedBuf (ns : List Nibble) (buf : Vector Byte 6) : Vector Byte 6 :=
  Vector.ofFn fun i => decodedByte ns i.val buf[i]

@[simp] theorem decodedBuf_getElem {ns : List Nibble} {buf : Vector Byte 6} {i : Nat} (h : i < 6) :
    (decodedBuf ns buf)[i] = decodedByte ns i buf[i] := by
  simp [decodedBuf]

theorem decodedByte_of_length_le {ns : List Nibble} {i : Nat} (h : ns.length ≤ 2 * i) (old : Byte) :
    decodedByte ns i old = old := by
  rw [decodedByte, List.getElem?_eq_none h]

theorem decodedByte_append {ns : List Nibble} {i : Nat} (h : 2 * i + 1 < ns.length) (ms : List Nibble) (old : Byte) :
    decodedByte (ns ++ ms) i old = decodedByte ns i old := by
  rw [decodedByte, decodedByte, List.getElem?_append_left h, List.getElem?_append_left (Nat.lt_of_succ_lt h)]

/-- The digit behind an even number of digits starts byte `i`. -/
theorem decodedByte_concat_even {ns : List Nibble} {i : Nat} (h : ns.length = 2 * i) (n : Nibble) (old : Byte) :
    decodedByte (ns ++ [n]) i old = zext8 n := by
  have hlast : (ns ++ [n])[2 * i + 1]? = none := List.getElem?_eq_none (by simp [h])
  rw [decodedByte, hlast, ← h, List.getElem?_concat_length]

/-- The digit behind an odd number of digits completes byte `i`. -/
theorem decodedByte_concat_odd {ns : List Nibble} {i : Nat} (h : ns.length = 2 * i + 1) (n : Nibble) (old : Byte) :
    decodedByte (ns ++ [n]) i old = shiftIn (decodedByte ns i old) n := by
  have hlast : ns[2 * i + 1]? = none := List.getElem?_eq_none h.le
  obtain ⟨m, hm⟩ : ∃ m, ns[2 * i]? = some m := ⟨_, List.getElem?_eq_getElem (by omega)⟩
  have hm' : (ns ++ [n])[2 * i]? = some m := by rw [List.getElem?_append_left (by omega), hm]
  have hn : (ns ++ [n])[2 * i + 1]? = some n := by rw [← h, List.getElem?_concat_length]
  rw [decodedByte, decodedByte, hm, hlast, hm', hn]

theorem decodedBuf_nil (buf : Vector Byte 6) : decodedBuf [] buf = buf := by
  refine Vector.ext fun i hi => ?_
  rw [decodedBuf_getElem hi, decodedByte_of_length_le (Nat.zero_le _)]

/-- NIBBLE writes what the closed form has with one more digit. -/
theorem decodedBuf_concat {ns : List Nibble} {i : Fin 6} (h : ns.length / 2 = i.val) (n : Nibble)
    (buf : Vector Byte 6) :
    (decodedBuf ns buf).set i.val (nibbleByte ns.length (decodedBuf ns buf)[i] n) i.isLt =
      decodedBuf (ns ++ [n]) buf := by
  refine Vector.ext fun j hj => ?_
  rw [Vector.getElem_set, decodedBuf_getElem hj, decodedBuf_getElem hj, Fin.getElem_fin, decodedBuf_getElem i.isLt]
  split
  next hij =>
    subst hij
    obtain hc | hc : ns.length = 2 * i.val ∨ ns.length = 2 * i.val + 1 := by omega
    · rw [decodedByte_concat_even hc, hc]
      exact nibbleByte_even i.val _ n
    · rw [decodedByte_concat_odd hc, hc]
      exact nibbleByte_odd i.val _ n
  next hij =>
    by_cases hlt : j < i.val
    · rw [decodedByte_append (by omega)]
    · rw [decodedByte_of_length_le (by omega), decodedByte_of_length_le (by simp; omega)]

/-! ## A poll up to the end marker -/

/-- The machine that was in `s`, after the start marker and the digits `ns`, with `q` still waiting. -/
def inFrame (s : State) (ns : List Nibble) (q : List Byte) : State :=
  { s with block := { cursor := ns.length, buf := decodedBuf ns s.block.buf }, rxq := q, result := none }

theorem poll_startMarker {s : State} {q : List Byte} (hidle : s.block.cursor < 0) (hq : s.rxq = s.params.stx :: q) :
    exec .pollReceive s = drain q.length (inFrame s [] q) := by
  rw [poll_of_selected (a := .search) hq hidle, unlessReturned_run_of_status_none rfl, Action.run, search_eq, if_pos rfl,
    inFrame, decodedBuf_nil]
  rfl

theorem drain_digit {s : State} {ns : List Nibble} (hok : s.params.ok = true) (hlen : ns.length < 12) (n : Nibble)
    (q : List Byte) (k : Nat) :
    drain (k + 1) (inFrame s ns (hexchar n :: q)) = drain k (inFrame s (ns ++ [n]) q) := by
  have hsel : (Action.nibble ⟨ns.length / 2, by omega⟩ n).Selected s.params ns.length (hexchar n) :=
    ⟨by simp only; omega, by simp only; omega, hexchar_ne_etx hok n, hexval_hexchar n⟩
  rw [drain_of_selected (s := inFrame s ns (hexchar n :: q)) rfl hsel, unlessReturned_run_of_status_none rfl]
  congr 1
  rw [inFrame, inFrame, ← decodedBuf_concat (i := ⟨ns.length / 2, by omega⟩) rfl, List.length_append, Nat.cast_add]
  rfl

theorem drain_digits {s : State} {ns ms : List Nibble} (hok : s.params.ok = true) (hlen : ns.length + ms.length ≤ 12)
    (q : List Byte) (k : Nat) :
    drain (ms.length + k) (inFrame s ns (ms.map hexchar ++ q)) = drain k (inFrame s (ns ++ ms) q) := by
  induction ms generalizing ns with
  | nil => simp
  | cons m ms ih =>
    rw [List.length_cons] at hlen
    rw [List.length_cons, Nat.add_right_comm, List.map_cons, List.cons_append, drain_digit hok (by omega),
      ih (by simp; omega), List.append_assoc, List.singleton_append]

theorem poll_digits {s : State} {ns : List Nibble} {q : List Byte} (hok : s.params.ok = true)
    (hidle : s.block.cursor < 0) (hlen : ns.length ≤ 12) (hq : s.rxq = s.params.stx :: (ns.map hexchar ++ q)) :
    exec .pollReceive s = drain q.length (inFrame s ns q) := by
  rw [poll_startMarker hidle hq, List.length_append, List.length_map, drain_digits hok (by simpa using hlen),
    List.nil_append]

/-- An idle machine polled on a whole frame of at most twelve digits ends it. -/
theorem poll_frame {s : State} {ns : List Nibble} {rest : List Byte} (hok : s.params.ok = true)
    (hidle : s.block.cursor < 0) (hlen : ns.length ≤ 12)
    (hq : s.rxq = s.params.stx :: (ns.map hexchar ++ s.params.etx :: rest)) :
    exec .pollReceive s = .next (endOfFrame (inFrame s ns rest)) := by
  have hsel : Action.endFrame.Selected s.params ns.length s.params.etx := ⟨Int.natCast_nonneg _, rfl⟩
  rw [poll_digits hok hidle hlen hq, List.length_cons,
    drain_of_selected (s := inFrame s ns (s.params.etx :: rest)) rfl hsel, unlessReturned_run_of_status_some rfl,
    ← Action.run_setRxq]
  rfl

/-- The end-of-frame event after `m` digits (R114, R115). -/
theorem endOfFrame_trace_of_cursor {s : State} {m : Nat} (hc : s.block.cursor = m) :
    (endOfFrame s).trace = (afterGate s).trace ++ (if presence s then [.tx s.params.ack] else []) ++
      (if 4 ≤ m then [.dispatch { bytes := (endOfFrame s).block.buf, length := m / 2 - 1 }] else []) := by
  have hhalf : halfCursor m = m / 2 := by
    unfold halfCursor
    omega
  have htwo : 1 < m / 2 ↔ 4 ≤ m := by omega
  rw [endOfFrame_eq]
  simp only [hc, hhalf, htwo]
  rfl

/-- Settles O50: the digits' closed form read at each byte. -/
theorem pollDecodesAnyFrameUpToTwelveCharacters : Obligations.PollDecodesAnyFrameUpToTwelveCharacters := by
  intro s ns rest hok hidle hlen hq
  have hbuf (i : Fin 6) : (endOfFrame (inFrame s ns rest)).block.buf[i] = decodedByte ns i.val s.block.buf[i] := by
    rw [endOfFrame_buf]
    exact decodedBuf_getElem i.isLt
  refine ⟨_, poll_frame hok hidle hlen hq, endOfFrame_cursor _, endOfFrame_rxq _, endOfFrame_trace_of_cursor rfl,
    fun i => ?_⟩
  rw [hbuf i]
  refine ⟨fun hi lo hhi hlo => ?_, fun n hn hl => ?_, fun hle => decodedByte_of_length_le hle _⟩
  · rw [decodedByte, hhi, hlo, shiftIn_toNat, zext8_toNat, Nat.mod_eq_of_lt hi.isLt]
  · rw [decodedByte, hn, List.getElem?_eq_none hl.le]
    rfl

end Sys2Proof.Machine

/-! SUPPORT. The frames the encoder builds, received (41_frame_encoder.md R99, 90_conflicts.md C3, C6): a byte sequence of
at most six bytes, sent as characters, is what its digits decode to. -/

namespace Sys2Proof.Machine

/-! ## Bytes and their digits (30_encoding.md R54) -/

theorem shiftIn_highNibble_lowNibble (v : Byte) : shiftIn (zext8 (highNibble v)) (lowNibble v) = v := by
  apply BitVec.eq_of_toNat_eq
  have hv : v.toNat < 256 := v.isLt
  rw [shiftIn_toNat, zext8_toNat, Nat.mod_eq_of_lt (highNibble v).isLt, highNibble, lowNibble,
    BitVec.extractLsb'_toNat, BitVec.extractLsb'_toNat, Nat.shiftRight_eq_div_pow, Nat.shiftRight_eq_div_pow]
  omega

/-- The digits of a byte sequence, high nibble first. -/
def nibblesOf : List Byte → List Nibble
  | [] => []
  | v :: vs => highNibble v :: lowNibble v :: nibblesOf vs

theorem nibblesOf_append (V W : List Byte) : nibblesOf (V ++ W) = nibblesOf V ++ nibblesOf W := by
  induction V with
  | nil => rfl
  | cons v V ih => simp [nibblesOf, ih]

theorem nibblesOf_length (V : List Byte) : (nibblesOf V).length = 2 * V.length := by
  induction V with
  | nil => rfl
  | cons v V ih =>
    rw [nibblesOf, List.length_cons, List.length_cons, List.length_cons, ih]
    omega

theorem hexOf_eq_map (V : List Byte) : hexOf V = (nibblesOf V).map hexchar := by
  induction V with
  | nil => rfl
  | cons v V ih => rw [hexOf, ih]; rfl

/-- A byte's characters decode to it, at its own index. -/
theorem decodedByte_nibblesOf (V : List Byte) (i : Nat) (old : Byte) :
    decodedByte (nibblesOf V) i old = V[i]?.getD old := by
  induction V generalizing i with
  | nil => exact decodedByte_of_length_le (Nat.zero_le _) old
  | cons v V ih =>
    cases i with
    | zero => exact shiftIn_highNibble_lowNibble v
    | succ i => exact ih i

theorem decodedBuf_nibblesOf_getElem {V : List Byte} {i : Nat} (hi : i < V.length) (h6 : i < 6)
    (buf : Vector Byte 6) : (decodedBuf (nibblesOf V) buf)[i] = V[i] := by
  rw [decodedBuf_getElem h6, decodedByte_nibblesOf, List.getElem?_eq_getElem hi, Option.getD_some]

/-- The buffer begins with the bytes received. -/
theorem decodedBuf_nibblesOf_take {V : List Byte} (h6 : V.length ≤ 6) (buf : Vector Byte 6) :
    (decodedBuf (nibblesOf V) buf).toList.take V.length = V := by
  refine List.ext_getElem (by simpa using h6) fun i _ hi => ?_
  rw [List.getElem_take, Vector.getElem_toList, decodedBuf_nibblesOf_getElem hi]

/-! ## A payload and a byte behind it -/

/-- What an idle machine's poll leaves of a payload of at most five bytes with any byte `k` in the checksum's place. -/
theorem poll_payload {s : State} {P rest : List Byte} (k : Byte) (hok : s.params.ok = true)
    (hidle : s.block.cursor < 0) (hlen : P.length ≤ 5)
    (hq : s.rxq = s.params.stx :: (hexOf P ++ hexPair k ++ s.params.etx :: rest)) :
    exec .pollReceive s = .next (endOfFrame (inFrame s (nibblesOf (P ++ [k])) rest)) := by
  refine poll_frame hok hidle ?_ (hq.trans ?_)
  · rw [nibblesOf_length, List.length_append, List.length_singleton]
    omega
  · rw [nibblesOf_append, List.map_append, ← hexOf_eq_map]
    rfl

/-- The payload is dispatched with its own length, whatever the byte behind it. -/
theorem endOfFrame_payload_trace {P : List Byte} (hlen : 1 ≤ P.length) (s : State) (k : Byte) (rest : List Byte) :
    (endOfFrame (inFrame s (nibblesOf (P ++ [k])) rest)).trace =
      (afterGate s).trace ++ (if presence s then [.tx s.params.ack] else []) ++
        [.dispatch { bytes := (endOfFrame (inFrame s (nibblesOf (P ++ [k])) rest)).block.buf, length := P.length }] := by
  have hdigits : (nibblesOf (P ++ [k])).length = 2 * P.length + 2 := by
    rw [nibblesOf_length, List.length_append, List.length_singleton, Nat.mul_add]
  have htrace := endOfFrame_trace_of_cursor (s := inFrame s (nibblesOf (P ++ [k])) rest) rfl
  have hfour : 4 ≤ 2 * P.length + 2 := by omega
  have hk : (2 * P.length + 2) / 2 - 1 = P.length := by omega
  rw [hdigits, if_pos hfour, hk] at htrace
  exact htrace

theorem endOfFrame_payload_buf {P : List Byte} (hlen : P.length ≤ 5) (s : State) (k : Byte) (rest : List Byte) :
    (endOfFrame (inFrame s (nibblesOf (P ++ [k])) rest)).block.buf.toList.take P.length = P ∧
      (endOfFrame (inFrame s (nibblesOf (P ++ [k])) rest)).block.buf[P.length]? = some k := by
  have hall : (P ++ [k]).length = P.length + 1 := List.length_append
  rw [endOfFrame_buf]
  change (decodedBuf (nibblesOf (P ++ [k])) s.block.buf).toList.take P.length = P ∧
    (decodedBuf (nibblesOf (P ++ [k])) s.block.buf)[P.length]? = some k
  constructor
  · have htake := congrArg (List.take P.length) (decodedBuf_nibblesOf_take (V := P ++ [k]) (by omega) s.block.buf)
    rwa [List.take_take, hall, min_eq_left (Nat.le_succ _), List.take_left] at htake
  · rw [Vector.getElem?_eq_getElem (by omega), decodedBuf_nibblesOf_getElem (by omega)]
    simp

/-- In the predicate's range it compares the byte behind the payload with the payload's checksum (30_encoding.md R57). -/
theorem rxChecksumOk_iff {buf : Vector Byte 6} {P : List Byte} {k : Byte} (h1 : 1 ≤ P.length) (h5 : P.length ≤ 5)
    (htake : buf.toList.take P.length = P) (hk : buf[P.length]? = some k) :
    rxChecksumOk buf P.length = true ↔ k = cksum (hexOf P) := by
  obtain ⟨_, hk⟩ := Vector.getElem?_eq_some_iff.1 hk
  simp [rxChecksumOk, h1, h5, htake, hk]

theorem frame_hexOf (p : Params) (P rest : List Byte) :
    frame p (hexOf P) ++ rest = p.stx :: (hexOf P ++ hexPair (cksum (hexOf P)) ++ p.etx :: rest) := by
  simp [frame, hexPair]

/-- Settles O54: the byte in the checksum's place is stored and never compared. -/
theorem wrongChecksumIsNotCaught : Obligations.WrongChecksumIsNotCaught := by
  intro s P k hok hidle h1 h5 hq
  obtain ⟨htake, hk⟩ := endOfFrame_payload_buf h5 s k []
  exact ⟨_, poll_payload k hok hidle h5 hq, endOfFrame_cursor _, endOfFrame_payload_trace h1 s k [], htake,
    rxChecksumOk_iff h1 h5 htake hk⟩

/-- Settles O51: the frame's last two characters are those of the payload's checksum. -/
theorem encoderFrameRoundTrips : Obligations.EncoderFrameRoundTrips := by
  intro s P rest hok hidle h1 h5 hq
  obtain ⟨htake, hk⟩ := endOfFrame_payload_buf h5 s (cksum (hexOf P)) rest
  refine ⟨_, poll_payload _ hok hidle h5 (hq.trans (frame_hexOf s.params P rest)), endOfFrame_cursor _,
    endOfFrame_rxq _, endOfFrame_payload_trace h1 s _ rest, htake, hk, (rxChecksumOk_iff h1 h5 htake hk).2 rfl⟩

/-- Settles O53: the two checksum digits are one byte, of which nothing is dispatched. -/
theorem emptyPayloadIsAcknowledgedNotDispatched : Obligations.EmptyPayloadIsAcknowledgedNotDispatched := by
  intro s rest hok hidle hq
  refine ⟨_, poll_payload (P := []) _ hok hidle (by decide) (hq.trans (frame_hexOf s.params [] rest)),
    endOfFrame_cursor _, endOfFrame_rxq _, ?_, endOfFrame_txlog _⟩
  rw [endOfFrame_displog]
  exact List.append_nil _

/-! ## Six bytes of payload (C3) -/

/-- The machine that was in `s`, in the overflow regime with the six bytes `P` decoded, between two polls. -/
def overflowed (s : State) (P q : List Byte) : State :=
  { inFrame s (nibblesOf P) q with result := some (pollResult .awaitingMore) }

theorem overflowed_cursor {P : List Byte} (hlen : P.length = 6) (s : State) (q : List Byte) :
    (overflowed s P q).block.cursor = 12 := by
  change ((nibblesOf P).length : Int) = 12
  rw [nibblesOf_length, hlen]
  rfl

/-- The first poll decodes the payload and drops the first character behind it. -/
theorem poll_six_bytes {s : State} {P q : List Byte} {b : Byte} (hok : s.params.ok = true) (hidle : s.block.cursor < 0)
    (hlen : P.length = 6) (hb : b ≠ s.params.etx) (hq : s.rxq = s.params.stx :: (hexOf P ++ b :: q)) :
    exec .pollReceive s = .next (overflowed s P q) := by
  have hdigits : (nibblesOf P).length = 12 := by rw [nibblesOf_length, hlen]
  have hsel : Action.overflow.Selected s.params (nibblesOf P).length b := ⟨by rw [hdigits]; rfl, hb⟩
  rw [hexOf_eq_map] at hq
  rw [poll_digits hok hidle hdigits.le hq, List.length_cons,
    drain_of_selected (s := inFrame s (nibblesOf P) (b :: q)) rfl hsel, unlessReturned_run_of_status_some rfl]
  rfl

theorem poll_overflowed {s : State} {P q : List Byte} {b : Byte} (hlen : P.length = 6) (hb : b ≠ s.params.etx) :
    exec .pollReceive (overflowed s P (b :: q)) = .next (overflowed s P q) :=
  poll_of_overflow (overflowed_cursor hlen s _).ge rfl hb

theorem poll_overflowed_etx {P : List Byte} (hlen : P.length = 6) (s : State) (q : List Byte) :
    exec .pollReceive (overflowed s P (s.params.etx :: q)) = .next (endOfFrame (overflowed s P q)) := by
  have hsel : Action.endFrame.Selected s.params (overflowed s P (s.params.etx :: q)).block.cursor s.params.etx :=
    ⟨by rw [overflowed_cursor hlen]; decide, rfl⟩
  rw [poll_of_selected (s := overflowed s P (s.params.etx :: q)) rfl hsel, unlessReturned_run_of_status_some rfl,
    ← Action.run_setRxq]
  rfl

/-- Settles O52: twelve digits fill the buffer; each checksum character is dropped and ends a poll, and the end marker
comes in the third. -/
theorem sixBytePayloadIsDeliveredWithLengthFive : Obligations.SixBytePayloadIsDeliveredWithLengthFive := by
  intro s P hok hidle hlen hq
  have hq' : s.rxq = s.params.stx :: (hexOf P ++ hexchar (highNibble (cksum (hexOf P))) ::
      [hexchar (lowNibble (cksum (hexOf P))), s.params.etx]) := hq.trans (frame_eq s.params (hexOf P))
  refine ⟨_, _, _, poll_six_bytes hok hidle hlen (hexchar_ne_etx hok _) hq',
    poll_overflowed hlen (hexchar_ne_etx hok _), poll_overflowed_etx hlen s [], rfl, overflowed_cursor hlen s _,
    endOfFrame_cursor _, endOfFrame_rxq _,
    endOfFrame_trace_of_cursor (s := overflowed s P []) (m := 12) (overflowed_cursor hlen s []), ?_⟩
  have htake := decodedBuf_nibblesOf_take hlen.le s.block.buf
  rw [List.take_of_length_le (by simp [hlen])] at htake
  rw [endOfFrame_buf]
  exact htake

end Sys2Proof.Machine
